-- ==== Sys2Proof/Word.lean ====
section
/-! DEFINITION. The words and indices of the WT4: register words, bytes, timebase values, and the numbers of
heads, lines, generators, channels and program entries (spec 00 §0.6, Table 0.4). -/

namespace Sys2Proof

/-- A byte, as the digitizer link carries it (R181). -/
abbrev Byte := BitVec 8

/-- A word of the register window, a record word (R173, R183). -/
abbrev Word := BitVec 16

/-- A timebase value: a timestamp, the tick counter (R165). -/
abbrev Stamp := BitVec 32

/-- A 24-bit code of ticks (Table 1.1, R84). -/
abbrev Ticks24 := BitVec 24

/-- An address of the register window (R173). -/
abbrev Addr := BitVec 7

/-- H0 to H3. -/
abbrev HeadIx := Fin 4

/-- TIN0 to TIN7. -/
abbrev LineIx := Fin 8

/-- RATE0 and RATE1. -/
abbrev RateIx := Fin 2

/-- S0 to S3. -/
abbrev ChanIx := Fin 4

/-- P0 to P31. -/
abbrev EntryIx := Fin 32

/-- Set 0 to set 7 of a ring. -/
abbrev SetIx := Fin 8

/-- The four heads in their numbers' order. -/
def allHeads : List HeadIx := [0, 1, 2, 3]

/-- The eight lines in their numbers' order. -/
def allLines : List LineIx := [0, 1, 2, 3, 4, 5, 6, 7]

/-- The two rate generators. -/
def allRates : List RateIx := [0, 1]

/-- The four strobe channels in their numbers' order. -/
def allChans : List ChanIx := [0, 1, 2, 3]

end Sys2Proof
end

