-- ==== Sys2Proof/Syntax.lean ====
section
/-! DEFINITION. The commands of the WT4: one constructor per row of spec/opcode_table.json, with the operands the row
needs (log 5, 7, 12). -/

namespace Sys2Proof

/-- Status of a COMPLETE message (Table 11.6). -/
inductive Status where
  | good | error | reject
  deriving DecidableEq, Repr

/-- Six bytes received on LRX as one frame, byte 0 first (R181, R182). -/
structure RxFrame where
  b0 : Byte
  b1 : Byte
  b2 : Byte
  b3 : Byte
  b4 : Byte
  b5 : Byte
  deriving DecidableEq, Repr

/-- A command: one row of the table. A command word's `upper` is bits 15:8 of the CMD word, which R178 disregards and
CMD reads back (Table 11.1); its arguments stand in ARG0 and ARG1. -/
inductive Instr where
  /-- RESETn held low and released (R184). -/
  | powerOnReset
  /-- SEL goes active and eight bits follow: bit 7 direction (1 read), bits 6:0 address (R173). -/
  | addressByte (byte : Byte)
  /-- SEL goes inactive; `cut` tells that it cuts off a data word already begun (R175). -/
  | deselect (cut : Bool)
  /-- A full data word of the open transaction, with `value` on SDI: in a write transaction delivered at its current
  address, in a read transaction shifted out from there, SDI disregarded (R173, R174, R176; log 6). -/
  | registerWrite (value : Word)
  | start (upper : Byte)
  | stop (upper : Byte)
  | abort (upper : Byte)
  | clear (upper : Byte)
  | headReset (upper : Byte)
  | softTrigger (upper : Byte)
  | apply (upper : Byte)
  | mark (upper : Byte)
  | discard (upper : Byte)
  | programWrite (upper : Byte)
  | programRead (upper : Byte)
  | programClear (upper : Byte)
  | tbLoad (upper : Byte)
  | softReset (upper : Byte)
  /-- A CMD word whose code Table 11.4 does not list (R178). -/
  | unlistedCommand (word : Word)
  | ringDataWrite (value : Word)
  | ringDataRead
  | headDropClear (head : HeadIx)
  | headEnable (head : HeadIx)
  | headDisable (head : HeadIx)
  | lineEnable (line : LineIx) (activeLow : Bool) (filter : Byte)
  | lineDisable (line : LineIx) (activeLow : Bool) (filter : Byte)
  | lineReconfigure (line : LineIx) (activeLow : Bool) (filter : Byte)
  /-- The pin's level is sampled at `high` (R21). -/
  | lineLevelChange (line : LineIx) (high : Bool)
  | filterExpiry (line : LineIx)
  | rateEnable (gen : RateIx) (code : Byte)
  | rateDisable (gen : RateIx) (code : Byte)
  | rateDecimation (gen : RateIx) (code : Byte)
  /-- A RATEn_P_HI write whose bits 7:0 are `hi` (R30). -/
  | ratePeriodWrite (gen : RateIx) (hi : Byte)
  | ratePeriodExpiry (gen : RateIx)
  | delayExpiry (head : HeadIx)
  | integrationExpiry (head : HeadIx)
  | widthLimitExpiry (head : HeadIx)
  | spacingExpiry (head : HeadIx)
  | strobeWaitExpiry (head : HeadIx)
  | overdueTickAttempt (head : HeadIx)
  | strobeEnable (chan : ChanIx)
  | strobeDisable (chan : ChanIx)
  | strobePolarity (chan : ChanIx) (activeLow : Bool)
  | linkEnable
  | linkDisable
  | grant
  | frameSent
  | complete (tag : Byte) (status : Status) (level : Word)
  /-- Six bytes that fail one of the tests of R120. -/
  | linkError (frame : RxFrame)
  | shortFrame
  | readoutTimeout
  | linkCntClear
  | queueRead
  | qThreshWrite (value : Word)
  | tbLoRead
  | tbDivWrite (value : Word)
  | tick
  | irqFlagsClear (value : Word)
  | byteTimeIdle
  | irqEnWrite (value : Word)
  | irqPolarity (activeHigh : Bool)
  deriving DecidableEq, Repr

end Sys2Proof
end

