-- ==== Sys2Proof/Decode.lean ====
section
/-! DEFINITION. What the part reads from bits: the table's rows (none gives bits), the command codes of Table 11.4, and
the frames of the digitizer link with their check byte (R182). -/

namespace Sys2Proof

/-- The command that a word spells by the table's bits: no row of spec/opcode_table.json gives bits (log 18). -/
def decodeTableWord (_nbits _w : Nat) : Option Instr := none

/-- The commands of Table 11.4. -/
inductive CmdName where
  | start | stop | abort | clear | headReset | softTrigger | apply | mark | discard
  | programWrite | programRead | programClear | tbLoad | softReset
  deriving DecidableEq, Repr

/-- The code of a command (Table 11.4). -/
def codeOfCmd : CmdName → Byte
  | .start => 0x01
  | .stop => 0x02
  | .abort => 0x03
  | .clear => 0x04
  | .headReset => 0x05
  | .softTrigger => 0x06
  | .apply => 0x07
  | .mark => 0x08
  | .discard => 0x09
  | .programWrite => 0x10
  | .programRead => 0x11
  | .programClear => 0x12
  | .tbLoad => 0x20
  | .softReset => 0x5A

/-- Every command of Table 11.4, in the table's order. -/
def allCmds : List CmdName :=
  [.start, .stop, .abort, .clear, .headReset, .softTrigger, .apply, .mark, .discard,
    .programWrite, .programRead, .programClear, .tbLoad, .softReset]

/-- The command that bits 7:0 of a CMD word name, none for a code that Table 11.4 does not list (R178). -/
def cmdOfCode (code : Byte) : Option CmdName :=
  allCmds.find? fun c => codeOfCmd c == code

/-- One step of the check byte: a bit enters the CRC-8 with generator x^8 + x^2 + x + 1 (R182). -/
def crcBit (crc : Byte) (b : Bool) : Byte :=
  if crc.msb != b then (crc <<< 1) ^^^ 0x07 else crc <<< 1

/-- A byte enters the check, most significant bit first (R182). -/
def crcByte (crc : Byte) (b : Byte) : Byte :=
  [7, 6, 5, 4, 3, 2, 1, 0].foldl (fun c i => crcBit c (b.getLsbD i)) crc

/-- The check byte of a frame's preceding bytes: starting value 0xFF, no final inversion (R182). -/
def crc8 (bytes : List Byte) : Byte :=
  bytes.foldl crcByte 0xFF

/-- A status code of Table 11.6, none for an unlisted one. -/
def statusOfCode (code : Byte) : Option Status :=
  if code = 0x01 then some .good
  else if code = 0x02 then some .error
  else if code = 0x03 then some .reject
  else none

/-- The code of a status (Table 11.6). -/
def codeOfStatus : Status → Byte
  | .good => 0x01
  | .error => 0x02
  | .reject => 0x03

/-- The examination of a received frame: a COMPLETE with its tag, status and level when the check matches, byte 0 is
0xA3 and byte 2 is a listed status code; none for a link error (R120, R182). -/
def examineFrame (f : RxFrame) : Option (Byte × Status × Word) :=
  if crc8 [f.b0, f.b1, f.b2, f.b3, f.b4] = f.b5 ∧ f.b0 = 0xA3 then
    (statusOfCode f.b2).map fun st => (f.b1, st, f.b3 ++ f.b4)
  else none

/-- The frame by which a digitizer sends a COMPLETE (Table 11.6). -/
def completeFrame (tag : Byte) (status : Status) (level : Word) : RxFrame :=
  let hi := level.extractLsb' 8 8
  let lo := level.extractLsb' 0 8
  { b0 := 0xA3, b1 := tag, b2 := codeOfStatus status, b3 := hi, b4 := lo
    b5 := crc8 [0xA3, tag, codeOfStatus status, hi, lo] }

end Sys2Proof
end

