-- ==== Sys2Proof/Config.lean ====
section
/-! DEFINITION. What the part fixes (Table 0.4), and the free values: choices the spec leaves open, as constants with
no body, so that no proof can lean on one. -/

namespace Sys2Proof.Config

/-- The record queue's store in words (R130). -/
def queueWords : Nat := 512

/-- The window's registers that hold the transaction's address: CMD, RING_DATA, Q_PORT (R174). -/
def portRegisters : List Addr := [0x02#7, 0x21#7, 0x60#7]

/-- FREE VALUE (log 3): in which order the heads receive one event, as the number of a permutation, for the n-th
such choice. R34: "The matrix gives no order among the heads that receive one event"; R36 says the same of one HEAD_EN
write that changes several heads. -/
opaque headOrder : Nat → Nat

/-- FREE VALUE (log 4): whether a grant whose conditions hold is taken before what comes next within one event: the join
of an extended group's own request at a completion, or the turn of the event's next head. For the n-th such choice. R117: "The
outcome depends on which the arbiter takes first". -/
opaque grantFirst : Nat → Bool

/-- FREE VALUE (log 23): whether a TB_DIV write that finds the tick in progress empty after a tick's end came together
with that end, for the n-th such choice. R166: "If the tick ends first, the write governs the tick that has just begun." -/
opaque writeAtTickEnd : Nat → Bool

/-- FREE VALUE (log 1): which of several due events of its own the part takes first on an empty command queue, for the
n-th such choice. -/
opaque dueChoice : Nat → Nat

end Sys2Proof.Config
end

