-- ==== Sys2Proof/Machine/State.lean ====
section
/-! DEFINITION. The state of the WT4 as plain data (Table 0.1), the reasons a step can stop (none), and the state after
power-on reset. Each field's docstring names the rule that gives it. -/

namespace Sys2Proof.Machine

/-- No command of the WT4 ends in a fault: the spec gives every command an effect in every state, and reports failures
in RESULT, in records and in flags. Nobody raises it. -/
inductive Fault where
  deriving DecidableEq, Repr

/-- Why a command has no meaning. -/
inductive Refusal where
  /-- Raised by exec's arm of a command that has no meaning yet. Safe: the model stops where the part goes on. -/
  | notModelled (mnemonic : String)
  deriving DecidableEq, Repr

/-! ## Programs (chapter 1) -/

/-- Field Length (R5). -/
inductive Length where
  | timed | width
  deriving DecidableEq, Repr

/-- Field Repeat (R7). -/
inductive Repeat where
  | trigger | timer
  deriving DecidableEq, Repr

/-- Field Overlap (R8). -/
inductive Overlap where
  | strict | overlap
  deriving DecidableEq, Repr

/-- Field Strobe Policy (R9). -/
inductive Policy where
  | wait | dark
  deriving DecidableEq, Repr

/-- Field Priority (R10). -/
inductive Priority where
  | normal | urgent
  deriving DecidableEq, Repr

/-- The seventeen stored codes of a program (R1, R3, Table 1.1). -/
structure Program where
  /-- bits 7:0 LINE0 to LINE7, bit 8 SOFT, bit 9 RATE0, bit 10 RATE1 -/
  sources : BitVec 11
  delay : Ticks24
  length : Length
  widthLimit : Ticks24
  accumulate : BitVec 5
  burst : Byte
  repetition : Repeat
  spacing : Ticks24
  overlap : Overlap
  /-- 0 NONE, 1 to 4 name S0 to S3 -/
  strobe : BitVec 3
  policy : Policy
  strobeWait : Word
  priority : Priority
  readoutLimit : Ticks24
  /-- bit 0 TIME, 1 SPAN, 2 SET, 3 CAUSE, 4 RESULT -/
  fields : BitVec 5
  dropNotices : Bool
  /-- 0 NONE, 1 to 32 name P0 to P31 -/
  link : BitVec 6
  deriving DecidableEq, Repr

/-- A program with every code zero (Table 1.1: each first-named value has code 0). -/
def Program.zero : Program :=
  { sources := 0, delay := 0, length := .timed, widthLimit := 0, accumulate := 0, burst := 0, repetition := .trigger
    spacing := 0, overlap := .strict, strobe := 0, policy := .wait, strobeWait := 0, priority := .normal
    readoutLimit := 0, fields := 0, dropNotices := false, link := 0 }

/-- A program entry: its valid mark and its stored codes (R1). -/
structure Entry where
  valid : Bool
  prog : Program
  deriving DecidableEq, Repr

/-- The validation codes of Table 1.3. -/
inductive ValCode where
  | invalidEntry | noSource | widthSource | widthRepeat | range
  deriving DecidableEq, Repr

/-! ## Trigger matrix (chapter 2) -/

/-- The eleven sources (R19). -/
inductive Source where
  | line (n : LineIx)
  | soft
  | rate (n : RateIx)
  deriving DecidableEq, Repr

/-- A candidate edge: the level moved to and the ticks its filter timer has left; 0 left is due (R20, R21). -/
structure Candidate where
  high : Bool
  left : Nat
  deriving DecidableEq, Repr

/-- The qualifier of an enabled line (R20). -/
structure Qualifier where
  /-- the qualified level, true for HIGH -/
  high : Bool
  candidate : Option Candidate
  deriving DecidableEq, Repr

/-- A trigger line (R20). It is enabled exactly when it has a qualifier. -/
structure Line where
  /-- active level: false HIGH, true LOW -/
  activeLow : Bool
  filter : Byte
  qualifier : Option Qualifier
  deriving DecidableEq, Repr

/-- The running state of an enabled rate generator: ticks the period timer has left (0 is due), expiry count (R27). -/
structure RateRun where
  left : Nat
  count : Byte
  deriving DecidableEq, Repr

/-- A rate generator (R27, R30). It is enabled exactly when it runs. -/
structure RateGen where
  /-- register RATEn_P_LO -/
  periodLo : Word
  /-- register RATEn_P_HI, bits 7:0 -/
  periodHi : Byte
  /-- the written period -/
  period : Ticks24
  /-- the decimation code; N is the code plus one -/
  decimation : Byte
  run : Option RateRun
  deriving DecidableEq, Repr

/-! ## Heads (chapters 3, 4, 5) -/

/-- The eleven exposure-side states (R35). -/
inductive ExpState where
  | off | idle | armed | pacing | delay | strobeWait | exposing | extending | blocked | draining | fault
  deriving DecidableEq, Repr

/-- The kind of a start, with its source where it has one (R40, R83). -/
inductive StartKind where
  | triggered (source : Source)
  | latched (source : Source)
  | paced
  deriving DecidableEq, Repr

/-- The pending start (R40). -/
structure PendingStart where
  kind : StartKind
  arrival : Stamp
  /-- latency count, saturating at 65,535 -/
  latency : Word
  deriving DecidableEq, Repr

/-- A group record (R39). -/
structure GroupRecord where
  setIndex : SetIx
  integration : Ticks24
  gain : BitVec 12
  tag : Byte
  timestamp : Stamp
  cause : StartKind
  latency : Word
  span : Stamp
  stretched : Bool
  dark : Bool
  late : Bool
  overrun : Bool
  deriving DecidableEq, Repr

/-- The spacing timer (R41, Table 3.2); `running 0` is due. -/
inductive SpacingTimer where
  | stopped
  | running (left : Nat)
  | expired (overdue : Word) (time : Stamp)
  deriving DecidableEq, Repr

/-- A latched trigger (R72). -/
structure Latch where
  source : Source
  arrival : Stamp
  /-- age count, saturating at 65,535 -/
  age : Word
  deriving DecidableEq, Repr

/-- The head context (Table 3.2). -/
structure Context where
  progIndex : EntryIx
  prog : Program
  /-- saturating at 255 (R38) -/
  groupsDone : Byte
  exposuresDone : BitVec 4
  group : Option GroupRecord
  pendingStart : Option PendingStart
  startLine : Option LineIx
  spacing : SpacingTimer
  latch : Option Latch
  stopPending : Bool
  deriving DecidableEq, Repr

/-- A cleared context (R37). -/
def Context.cleared : Context :=
  { progIndex := 0, prog := Program.zero, groupsDone := 0, exposuresDone := 0, group := none, pendingStart := none
    startLine := none, spacing := .stopped, latch := none, stopPending := false }

/-- Whether a PACED retry waits for the next tick of the overdue count, or that tick has come (R105). -/
inductive Retry where
  | none | waiting | due
  deriving DecidableEq, Repr

/-- The interval timers of a head but the spacing timer: none stopped, some n with n ticks left, 0 left due; the
exposure-length count counts up (R41, R102). -/
structure HeadTimers where
  delay : Option Nat
  integration : Option Nat
  widthLimit : Option Nat
  strobeWait : Option Nat
  exposure : Option Nat
  retry : Retry
  deriving DecidableEq, Repr

/-- Every timer stopped. -/
def HeadTimers.stopped : HeadTimers :=
  { delay := none, integration := none, widthLimit := none, strobeWait := none, exposure := none, retry := .none }

/-- A completed group in a readout slot, with what travels with it (R42). -/
structure Completed where
  record : GroupRecord
  priority : Priority
  readoutLimit : Ticks24
  fields : BitVec 5
  aborted : Bool
  deriving DecidableEq, Repr

/-- The readout slot (R42). -/
inductive Slot where
  | empty
  | queued (group : Completed)
  | active (group : Completed)
  deriving DecidableEq, Repr

/-- A setting set (R84). -/
structure SettingSet where
  integration : Ticks24
  gain : BitVec 12
  tag : Byte
  deriving DecidableEq, Repr

/-- A ring: a length code and eight sets (R84). -/
structure Ring where
  length : BitVec 4
  sets : Vector SettingSet 8
  deriving DecidableEq, Repr

/-- The bracket ring of a head (R84, R85, R91). -/
structure HeadRing where
  staged : Ring
  live : Ring
  pointer : SetIx
  applyPending : Bool
  withdrawn : Bool
  deriving DecidableEq, Repr

/-- A head: enable (R36), exposure-side state (R35), context, timers, slot, ring, drop counter (R48), sequence number
(R139), lost count (R140) and RESTART-pending mark (R141). -/
structure Head where
  enabled : Bool
  state : ExpState
  ctx : Context
  timers : HeadTimers
  slot : Slot
  ring : HeadRing
  drops : Word
  seq : Word
  lost : Word
  restart : Bool
  deriving DecidableEq, Repr

/-! ## Strobe channels (chapter 6) -/

/-- A strobe channel (R97); waiters oldest first. -/
structure Channel where
  enabled : Bool
  /-- polarity: false ACTIVE_HIGH, true ACTIVE_LOW -/
  activeLow : Bool
  holder : Option HeadIx
  waiters : List HeadIx
  deriving DecidableEq, Repr

/-! ## Readout arbiter and link (chapter 7) -/

/-- The digitizer port (R115): IDLE, or BUSY with active head, active tag and ticks the readout timer has left. -/
inductive Port where
  | idle
  | busy (head : HeadIx) (tag : Byte) (left : Nat)
  deriving DecidableEq, Repr

/-- A message to the digitizer (Table 7.1). -/
inductive Message where
  | start (head : HeadIx) (tag : Byte) (gain : BitVec 10)
  | cancel (tag : Byte)
  deriving DecidableEq, Repr

/-- The readout arbiter (R113 to R121). -/
structure Arbiter where
  queue : List HeadIx
  port : Port
  tagCounter : Byte
  linkEnable : Bool
  stray : Byte
  linkErrors : Byte
  deriving DecidableEq, Repr

/-- The link's two ends (R119, R181): the frame being sent, the messages waiting in order, and whether the receiver
waits for one byte time of idle before it takes a frame. -/
structure LinkEnds where
  sending : Option Message
  waiting : List Message
  rxWaitsIdle : Bool
  deriving DecidableEq, Repr

/-! ## Records (chapter 8) -/

/-- Drop reasons (R134). -/
inductive DropReason where
  | early | latchFull | strobeTimeout | short
  deriving DecidableEq, Repr

/-- Slot fates of an ABORT record (R135). -/
inductive SlotFate where
  | none | unqueued | readoutContinues
  deriving DecidableEq, Repr

/-- Reasons of an END record (R136). -/
inductive EndReason where
  | complete | stopped | linkInvalid
  deriving DecidableEq, Repr

/-- Fault codes (R137). -/
inductive FaultCode where
  | readoutTimeout | rejected
  deriving DecidableEq, Repr

/-- The flags of a CAPTURE record (R132). -/
structure CaptureFlags where
  stretched : Bool
  dark : Bool
  late : Bool
  aborted : Bool
  overrun : Bool
  digerr : Bool
  deriving DecidableEq, Repr

/-- What a head's record says after HDR and SEQ, GAP apart (Table 8.1). -/
inductive Body where
  | capture (flags : CaptureFlags) (time : Option Stamp) (span : Option Stamp)
      (set : Option (SetIx × Byte × BitVec 12)) (cause : Option (StartKind × Word)) (result : Option (Status × Word))
  /-- source none stands for PACED -/
  | drop (reason : DropReason) (source : Option Source) (time : Option Stamp)
  | abort (discarded : BitVec 5) (fate : SlotFate)
  | burstEnd (reason : EndReason) (code : Option ValCode) (program : EntryIx) (next : Option EntryIx)
  | fault (code : FaultCode) (discarded : BitVec 5) (time : Stamp)
  deriving DecidableEq, Repr

/-- A record as it was formed (R131). -/
inductive Record where
  | mark (tag : Word)
  | ofHead (head : HeadIx) (restart : Bool) (seq : Word) (gap : Option Word) (body : Body)
  deriving DecidableEq, Repr

/-- The record queue (R130, R148): whole records oldest first, words of the oldest already read, threshold. -/
structure RecordQueue where
  records : List Record
  readPos : Nat
  threshold : Nat
  deriving DecidableEq, Repr

/-! ## Timebase, interrupts, host port (chapters 10, 11) -/

/-- The timebase (R165, R166, R168). -/
structure Timebase where
  counter : Stamp
  /-- TB_DIV: the divider is the code plus one -/
  divCode : Byte
  /-- the code that governs the tick in progress -/
  tickCode : Byte
  /-- the tick in progress: REFCLK periods already counted -/
  refclks : Nat
  /-- MODEL: a tick has ended and nothing tells that time has passed since (log 23) -/
  fresh : Bool
  /-- the captured high half -/
  captured : Word
  deriving DecidableEq, Repr

/-- The interrupt unit (R169, R171): sticky flags and enables at the places of IRQ_FLAGS. -/
structure Interrupts where
  flags : Word
  enables : Word
  /-- polarity: false ACTIVE_LOW, true ACTIVE_HIGH -/
  activeHigh : Bool
  deriving DecidableEq, Repr

/-- A host transaction: its direction and current address (R173, R174). -/
structure Transaction where
  read : Bool
  addr : Addr
  deriving DecidableEq, Repr

/-- RING_SEL: head, selector (true LIVE), word position (R86). -/
structure RingSel where
  head : HeadIx
  live : Bool
  pos : Fin 33
  deriving DecidableEq, Repr

/-- The host port (R173 to R179). -/
structure HostPort where
  transaction : Option Transaction
  /-- the word last shifted out on SDO in a read, none at high impedance -/
  sdo : Option Word
  arg0 : Word
  arg1 : Word
  cmd : Word
  result : Word
  ringSel : RingSel
  deriving DecidableEq, Repr

/-- The whole part (Table 0.1), with the pins' input levels, the model's counter of open choices (log 9) and the queue
of waiting commands. -/
structure State where
  /-- program table (R1) -/
  table : Vector Entry 32
  /-- descriptor buffer DB0 to DB15 (R2) -/
  buffer : Vector Word 16
  /-- present levels of TIN0 to TIN7, true HIGH (R21) -/
  tin : Vector Bool 8
  lines : Vector Line 8
  rates : Vector RateGen 2
  heads : Vector Head 4
  chans : Vector Channel 4
  arb : Arbiter
  link : LinkEnds
  queue : RecordQueue
  tb : Timebase
  irq : Interrupts
  port : HostPort
  /-- MODEL: how many open choices have been made; it feeds the free values of Config -/
  choices : Nat
  /-- MODEL: commands waiting, first in first out -/
  pending : List Instr
  deriving DecidableEq, Repr

/-! ## Power-on reset -/

/-- Staged and live ring after power-on (R96). -/
def Ring.reset : Ring :=
  { length := 1
    sets := #v[⟨100, 0, 0⟩, ⟨0, 0, 0⟩, ⟨0, 0, 0⟩, ⟨0, 0, 0⟩, ⟨0, 0, 0⟩, ⟨0, 0, 0⟩, ⟨0, 0, 0⟩, ⟨0, 0, 0⟩] }

/-- A head after power-on (R68, R96, R149). -/
def Head.reset : Head :=
  { enabled := false, state := .off, ctx := Context.cleared, timers := HeadTimers.stopped, slot := .empty
    ring := { staged := Ring.reset, live := Ring.reset, pointer := 0, applyPending := false, withdrawn := false }
    drops := 0, seq := 0, lost := 0, restart := true }

/-- The part right after power-on reset: every field at the value the spec states (R1, R2, R20, R27, R68, R86, R96, R97,
R129, R149, R165, R168, R172, R179, R181, R184); the TIN levels are the model's (log 8). -/
def State.reset : State :=
  { table := Vector.replicate 32 ⟨false, Program.zero⟩
    buffer := Vector.replicate 16 0
    tin := Vector.replicate 8 false
    lines := Vector.replicate 8 { activeLow := false, filter := 0, qualifier := none }
    rates := Vector.replicate 2 { periodLo := 0, periodHi := 0, period := 0, decimation := 0, run := none }
    heads := Vector.replicate 4 Head.reset
    chans := Vector.replicate 4 { enabled := false, activeLow := false, holder := none, waiters := [] }
    arb := { queue := [], port := .idle, tagCounter := 0, linkEnable := false, stray := 0, linkErrors := 0 }
    link := { sending := none, waiting := [], rxWaitsIdle := true }
    queue := { records := [], readPos := 0, threshold := 1 }
    tb := { counter := 0, divCode := 0, tickCode := 0, refclks := 0, fresh := false, captured := 0 }
    irq := { flags := 0, enables := 0, activeHigh := false }
    port := { transaction := none, sdo := none, arg0 := 0, arg1 := 0, cmd := 0, result := 0,
              ringSel := { head := 0, live := false, pos := 0 } }
    choices := 0
    pending := [] }

end Sys2Proof.Machine
end

