-- ==== Sys2Proof/Machine/Operands.lean ====
section
/-! DEFINITION. The operand forms: command arguments, the meaning of a program's codes, validation, positions of a ring,
and the counts every block uses. -/

namespace Sys2Proof.Machine

/-! ## Counts -/

/-- A saturating counter's increment (00 §0.6: "stops at its maximum and stays there"). -/
def satInc {w : Nat} (c : BitVec w) : BitVec w :=
  if c = BitVec.allOnes w then c else c + 1

/-- SPAN with an exposure's length added, saturating at 4,294,967,295 (R57; log 19). -/
def addSpan (span : Stamp) (len : Nat) : Stamp :=
  if span.toNat + len < 2 ^ 32 then BitVec.ofNat 32 (span.toNat + len) else BitVec.allOnes 32

/-- Bits 31:16 of a timebase value. -/
def hiHalf (x : Stamp) : Word := x.extractLsb' 16 16

/-- Bits 15:0 of a timebase value. -/
def loHalf (x : Stamp) : Word := x.extractLsb' 0 16

/-! ## Blocks of several like parts -/

/-- Every part of a block changed by f. -/
def mapAll {α β : Type} {n : Nat} (f : α → β) (v : Vector α n) : Vector β n :=
  ⟨(v.toList.map f).toArray, by simp⟩

/-- Every part of a block made from the parts of two, in their places. -/
def zipAll {α β γ : Type} {n : Nat} (f : α → β → γ) (v : Vector α n) (w : Vector β n) : Vector γ n :=
  ⟨(List.zipWith f v.toList w.toList).toArray, by simp⟩

/-! ## Command arguments (Table 11.4) -/

/-- A head argument: none is BAD_HEAD, "the head index is above 3" (R43, R88, R152, R156, R161, R162). -/
def headArg (arg : Word) : Option HeadIx :=
  if h : arg.toNat < 4 then some ⟨arg.toNat, h⟩ else none

/-- An entry argument: none is BAD_ARG, an index above 31 (R13, R14, R15, R17). -/
def entryArg (arg : Word) : Option EntryIx :=
  if h : arg.toNat < 32 then some ⟨arg.toNat, h⟩ else none

/-- The heads a SOFT_TRIGGER mask names: the lower four positions of ARG0 (R31). -/
def maskHeads (mask : Word) : List HeadIx :=
  allHeads.filter fun h => mask.getLsbD h.val

/-! ## Sources and events (R19) -/

/-- The code of a source: 0 to 7 lines, 8 SOFT, 9 and 10 the generators (R183, Table 11.2). -/
def Source.code : Source → Nat
  | .line n => n.val
  | .soft => 8
  | .rate n => 9 + n.val

/-- The line of a line source. -/
def Source.line? : Source → Option LineIx
  | .line n => some n
  | _ => none

/-- Whether a program's Sources contains a source (R4). -/
def Program.hasSource (p : Program) (s : Source) : Bool :=
  p.sources.getLsbD s.code

/-- The starting source that a start by this source leaves in the context: its line under WIDTH, none under TIMED (R40). -/
def Program.startLineFor (p : Program) (s : Source) : Option LineIx :=
  match p.length with
  | .width => s.line?
  | .timed => none

/-- Whether a level is the line's active level (R20, R21). -/
def Line.isActive (l : Line) (high : Bool) : Bool :=
  high != l.activeLow

/-- Whether the line is enabled (R20). -/
def Line.enabled (l : Line) : Bool := l.qualifier.isSome

/-! ## Program codes (Table 1.1) -/

/-- The strobe channel a program names: codes 1 to 4; 0 is NONE, and 5 to 7 no accepted program holds (R16; log 20). -/
def Program.channel (p : Program) : Option ChanIx :=
  if h : 1 ≤ p.strobe.toNat ∧ p.strobe.toNat ≤ 4 then some ⟨p.strobe.toNat - 1, by omega⟩ else none

/-- The entry a program links to: codes 1 to 32; 0 is NONE, and 33 to 63 no accepted program holds (R12, R16; log 20). -/
def Program.linkEntry (p : Program) : Option EntryIx :=
  if h : 1 ≤ p.link.toNat ∧ p.link.toNat ≤ 32 then some ⟨p.link.toNat - 1, by omega⟩ else none

/-- Whether the Fields mask contains TIME. -/
def wantsTime (fields : BitVec 5) : Bool := fields.getLsbD 0
/-- Whether the Fields mask contains SPAN. -/
def wantsSpan (fields : BitVec 5) : Bool := fields.getLsbD 1
/-- Whether the Fields mask contains SET. -/
def wantsSet (fields : BitVec 5) : Bool := fields.getLsbD 2
/-- Whether the Fields mask contains CAUSE. -/
def wantsCause (fields : BitVec 5) : Bool := fields.getLsbD 3
/-- Whether the Fields mask contains RESULT. -/
def wantsResult (fields : BitVec 5) : Bool := fields.getLsbD 4

/-- Sources is exactly one member, one of LINE0 to LINE7 (Table 1.3, check 3). -/
def oneLine (sources : BitVec 11) : Bool :=
  allLines.any fun n => sources == 1#11 <<< n.val

/-- The RANGE check: some code lies outside its accepted values (R16's list). -/
def Program.outOfRange (p : Program) : Bool :=
  decide (p.delay.toNat > 1048575)
    || (decide (p.length = .width) && decide (p.widthLimit = 0))
    || decide (p.accumulate = 0) || decide (p.accumulate.toNat > 16)
    || (decide (p.repetition = .timer) && decide (p.spacing = 0))
    || decide (p.strobe.toNat > 4)
    || decide (p.readoutLimit = 0)
    || decide (p.link.toNat > 32)

/-- Validation: the first failing check of Table 1.3, none when every check passes (R16). -/
def validate (e : Entry) : Option ValCode :=
  if !e.valid then some .invalidEntry
  else if e.prog.sources = 0 then some .noSource
  else if e.prog.length = .width ∧ !oneLine e.prog.sources then some .widthSource
  else if e.prog.length = .width ∧ e.prog.repetition = .timer then some .widthRepeat
  else if e.prog.outOfRange then some .range
  else none

/-! ## Head predicates -/

/-- Whether a state is one of a running burst (R35). -/
def ExpState.running : ExpState → Bool
  | .armed | .pacing | .delay | .strobeWait | .exposing | .extending | .blocked => true
  | .off | .idle | .draining | .fault => false

/-- Whether EXPn is active: exactly in EXPOSING and EXTENDING (R53). -/
def ExpState.exposes : ExpState → Bool
  | .exposing | .extending => true
  | .off | .idle | .armed | .pacing | .delay | .strobeWait | .blocked | .draining | .fault => false

/-- Whether the head's next start is triggered (R73): Repeat TRIGGER, or the spacing timer stopped. -/
def Context.nextTriggered (c : Context) : Bool :=
  decide (c.prog.repetition = .trigger) || decide (c.spacing = .stopped)

/-- Whether the exposure now in progress is the last of its group: exposures done is Accumulate minus one (R38). -/
def Context.lastExposure (c : Context) : Bool :=
  decide (c.exposuresDone.toNat + 1 = c.prog.accumulate.toNat)

/-- Whether a paced start made now is late: the spacing timer's overdue count is above 0 (R59, R82). -/
def SpacingTimer.overdue : SpacingTimer → Bool
  | .expired n _ => decide (n ≠ 0)
  | .stopped | .running _ => false

/-- Whether an assert from a source reaches a head, the soft mask apart (R32). -/
def Head.assertReaches (hd : Head) (src : Source) : Bool :=
  hd.state.running && hd.ctx.prog.hasSource src

/-- Whether a release of a line reaches a head (R33). -/
def Head.releaseReaches (hd : Head) (n : LineIx) : Bool :=
  hd.state.running && decide (hd.ctx.prog.length = .width) && decide (hd.ctx.startLine = some n)

/-- Exposures discarded by a teardown (R151, Table 9.1). -/
def Head.discarded (hd : Head) : BitVec 5 :=
  if hd.ctx.group.isNone then 0
  else if hd.state.exposes then hd.ctx.exposuresDone.zeroExtend 5 + 1
  else hd.ctx.exposuresDone.zeroExtend 5

/-- The group record a slot holds. -/
def Slot.group? : Slot → Option Completed
  | .empty => none
  | .queued g => some g
  | .active g => some g

/-! ## Rings (R84 to R88) -/

/-- A set that APPLY accepts: Integration at least 1, Gain at most 1023 (R88). -/
def SettingSet.ok (x : SettingSet) : Bool :=
  decide (x.integration ≠ 0) && decide (x.gain.toNat ≤ 1023)

/-- APPLY's check of a ring: length 1 to 8, every set below the length in order (R88). -/
def Ring.ok (r : Ring) : Bool :=
  decide (1 ≤ r.length.toNat) && decide (r.length.toNat ≤ 8)
    && (List.finRange 8).all fun i => decide (r.length.toNat ≤ i.val) || (r.sets[i.val]'i.isLt).ok

/-- The code at a word position: words 0 to 3 of the sets in turn, then the length word (R86). -/
def Ring.code (r : Ring) (pos : Fin 33) : Word :=
  if h : pos.val < 32 then
    let x := r.sets[pos.val / 4]'(by omega)
    if pos.val % 4 = 0 then x.integration.extractLsb' 0 16
    else if pos.val % 4 = 1 then (x.integration.extractLsb' 16 8).zeroExtend 16
    else if pos.val % 4 = 2 then x.gain.zeroExtend 16
    else x.tag.zeroExtend 16
  else r.length.zeroExtend 16

/-- A set with one of its four words written, in the width of its code (R87). -/
def SettingSet.put (x : SettingSet) (k : Nat) (w : Word) : SettingSet :=
  if k = 0 then { x with integration := x.integration.extractLsb' 16 8 ++ w }
  else if k = 1 then { x with integration := w.extractLsb' 0 8 ++ x.integration.extractLsb' 0 16 }
  else if k = 2 then { x with gain := w.extractLsb' 0 12 }
  else { x with tag := w.extractLsb' 0 8 }

/-- A ring with the code at a word position written (R86, R87). -/
def Ring.put (r : Ring) (pos : Fin 33) (w : Word) : Ring :=
  if h : pos.val < 32 then
    { r with sets := r.sets.set (pos.val / 4) ((r.sets[pos.val / 4]'(by omega)).put (pos.val % 4) w) (by omega) }
  else { r with length := w.extractLsb' 0 4 }

/-- The next word position: 32 is followed by 0 (R87). -/
def nextPos (pos : Fin 33) : Fin 33 := pos + 1

/-- The next index of a cycle: one more modulo the live length (R92). -/
def nextPointer (p : SetIx) (len : BitVec 4) : SetIx :=
  Fin.ofNat 8 ((p.val + 1) % len.toNat)

/-! ## Rate generators -/

/-- The ticks a period counts: the written period, 0 and 1 counted as 2 (R27). -/
def RateGen.ticks (g : RateGen) : Nat := max 2 g.period.toNat

/-! ## Orders the spec leaves open -/

/-- A list in the order that a permutation's number gives: each remaining element may come first. -/
def arrange {α : Type} : Nat → Nat → List α → List α
  | 0, _, l => l
  | _ + 1, _, [] => []
  | fuel + 1, k, x :: xs =>
    (x :: xs).getD (k % (xs.length + 1)) x
      :: arrange fuel (k / (xs.length + 1)) ((x :: xs).eraseIdx (k % (xs.length + 1)))

end Sys2Proof.Machine
end

