-- ==== Sys2Proof/Machine/Format.lean ====
section
/-! DEFINITION. The bit layouts of chapter 11: descriptor buffer, record words, RESULT, register images, link frames.
Each is written from its table, most significant field first. -/

namespace Sys2Proof.Machine

/-! ## Descriptor buffer (Table 11.2) -/

/-- The program whose codes stand in the buffer; the valid-mark position is not consulted (R13). -/
def programOfBuffer (b : Vector Word 16) : Program :=
  { sources := b[0].extractLsb' 0 11
    delay := b[2].extractLsb' 0 8 ++ b[1]
    length := if b[3].getLsbD 0 then .width else .timed
    repetition := if b[3].getLsbD 1 then .timer else .trigger
    overlap := if b[3].getLsbD 2 then .overlap else .strict
    policy := if b[3].getLsbD 3 then .dark else .wait
    priority := if b[3].getLsbD 4 then .urgent else .normal
    dropNotices := b[3].getLsbD 5
    strobe := b[3].extractLsb' 8 3
    fields := b[3].extractLsb' 11 5
    widthLimit := b[5].extractLsb' 0 8 ++ b[4]
    accumulate := b[6].extractLsb' 0 5
    burst := b[6].extractLsb' 8 8
    spacing := b[8].extractLsb' 0 8 ++ b[7]
    strobeWait := b[9]
    readoutLimit := b[11].extractLsb' 0 8 ++ b[10]
    link := b[12].extractLsb' 0 6 }

/-- DB3's lower six bits, bit 5 first: Drop Notices, Priority, Strobe Policy, Overlap, Repeat, Length. -/
def Program.twoValued (p : Program) : BitVec 6 :=
  BitVec.ofBool p.dropNotices ++ BitVec.ofBool (p.priority = .urgent) ++ BitVec.ofBool (p.policy = .dark)
    ++ BitVec.ofBool (p.overlap = .overlap) ++ BitVec.ofBool (p.repetition = .timer) ++ BitVec.ofBool (p.length = .width)

/-- The buffer that PROGRAM_READ fills from an entry: codes and valid mark, every other position zero (R14). -/
def bufferOfEntry (e : Entry) : Vector Word 16 :=
  let p := e.prog
  #v[BitVec.ofBool e.valid ++ 0#4 ++ p.sources,
    p.delay.extractLsb' 0 16, 0#8 ++ p.delay.extractLsb' 16 8,
    p.fields ++ p.strobe ++ 0#2 ++ p.twoValued,
    p.widthLimit.extractLsb' 0 16, 0#8 ++ p.widthLimit.extractLsb' 16 8,
    p.burst ++ 0#3 ++ p.accumulate,
    p.spacing.extractLsb' 0 16, 0#8 ++ p.spacing.extractLsb' 16 8,
    p.strobeWait,
    p.readoutLimit.extractLsb' 0 16, 0#8 ++ p.readoutLimit.extractLsb' 16 8,
    0#10 ++ p.link, 0, 0, 0]

/-! ## Records (Tables 8.1, 11.7, 11.8) -/

/-- The 4-bit source code of a record word; PACED in place of a source is 15 (R183). -/
def sourceCode : Option Source → BitVec 4
  | some s => BitVec.ofNat 4 s.code
  | none => 15

/-- CAUSE, first word: kind 13:12, source 3:0. A PACED cause has no source, and an item not carried reads as zero
(R133, R183; DEDUCED, log 14); the bits of no item read 0 (log 24). -/
def causeWord : StartKind → Word
  | .triggered s => 0#2 ++ 1#2 ++ 0#8 ++ sourceCode (some s)
  | .latched s => 0#2 ++ 2#2 ++ 0#8 ++ sourceCode (some s)
  | .paced => 0#2 ++ 3#2 ++ 0#12

/-- Code of a drop reason. -/
def DropReason.code : DropReason → BitVec 2
  | .early => 0
  | .latchFull => 1
  | .strobeTimeout => 2
  | .short => 3

/-- Code of a slot fate. -/
def SlotFate.code : SlotFate → BitVec 2
  | .none => 0
  | .unqueued => 1
  | .readoutContinues => 2

/-- Code of an END reason. -/
def EndReason.code : EndReason → BitVec 2
  | .complete => 0
  | .stopped => 1
  | .linkInvalid => 2

/-- Code of a head fault. -/
def FaultCode.code : FaultCode → BitVec 2
  | .readoutTimeout => 1
  | .rejected => 2

/-- Code of a validation result, 0 for none (Table 11.5). -/
def valCode : Option ValCode → BitVec 3
  | none => 0
  | some .invalidEntry => 1
  | some .noSource => 2
  | some .widthSource => 3
  | some .widthRepeat => 4
  | some .range => 5

/-- FLAGS, bit 5 first: DIGERR, OVERRUN, ABORTED, LATE, DARK, STRETCHED; bits 15:6, of no item, read 0 (DESIGN CHOICE, log
24). -/
def CaptureFlags.word (f : CaptureFlags) : Word :=
  0#10 ++ BitVec.ofBool f.digerr ++ BitVec.ofBool f.overrun ++ BitVec.ofBool f.aborted ++ BitVec.ofBool f.late
    ++ BitVec.ofBool f.dark ++ BitVec.ofBool f.stretched

/-- A two-word field, its more significant half first (R131). -/
def twoWords (x : Stamp) : List Word := [hiHalf x, loHalf x]

/-- The words of an optional field, none when the record does not carry it. -/
def optWords {α : Type} (f : α → List Word) : Option α → List Word
  | some x => f x
  | none => []

/-- The two words of SET; the bits of no item, 15:11 and 15:10, read 0 (DESIGN CHOICE, log 24). -/
def setWords (x : SetIx × Byte × BitVec 12) : List Word :=
  [0#5 ++ BitVec.ofNat 3 x.1.val ++ x.2.1, 0#6 ++ x.2.2.extractLsb' 0 10]

/-- The two words of CAUSE. -/
def causeWords (x : StartKind × Word) : List Word := [causeWord x.1, x.2]

/-- The two words of RESULT: GOOD 1, ERROR 2; bits 15:2 of the first, of no item, read 0 (DESIGN CHOICE, log 24). -/
def resultWords (x : Status × Word) : List Word := [(codeOfStatus x.1).zeroExtend 16, x.2]

/-- The type code of HDR (Table 11.7). -/
def Body.typeCode : Body → BitVec 3
  | .capture .. => 1
  | .drop .. => 2
  | .abort .. => 3
  | .burstEnd .. => 4
  | .fault .. => 5

/-- The words after SEQ: the type's fixed words, then the optional fields, GAP first (Table 8.1). The bits of a DETAIL or NEXT
word to which Table 11.8 gives no item read 0 (DESIGN CHOICE, log 24). -/
def Body.words (gap : Option Word) : Body → List Word
  | .capture f time span set cause result =>
    f.word :: (optWords (fun g => [g]) gap ++ optWords twoWords time ++ optWords twoWords span
      ++ optWords setWords set ++ optWords causeWords cause ++ optWords resultWords result)
  | .drop reason source time =>
    (0#2 ++ reason.code ++ 0#8 ++ sourceCode source) :: (optWords (fun g => [g]) gap ++ optWords twoWords time)
  | .abort discarded fate =>
    (0#2 ++ fate.code ++ 0#7 ++ discarded) :: optWords (fun g => [g]) gap
  | .burstEnd reason code program next =>
    (reason.code ++ 0#3 ++ valCode code ++ 0#3 ++ BitVec.ofNat 5 program.val)
      :: (match next with
          | some n => 1#1 ++ 0#10 ++ BitVec.ofNat 5 n.val
          | none => 0)
      :: optWords (fun g => [g]) gap
  | .fault code discarded time =>
    (0#2 ++ code.code ++ 0#7 ++ discarded) :: (twoWords time ++ optWords (fun g => [g]) gap)

/-- HDR: type 15:13, origin 12:10, RESTART 9, length 3:0 (Table 11.7); bits 8:4, of no item, read 0 (DESIGN CHOICE, log 24). -/
def hdrWord (type origin : BitVec 3) (restart : Bool) (len : Nat) : Word :=
  type ++ origin ++ BitVec.ofBool restart ++ 0#5 ++ BitVec.ofNat 4 len

/-- The words of a record (R131, R138, R183). -/
def Record.words : Record → List Word
  | .mark tag => [hdrWord 6 5 false 2, tag]
  | .ofHead h restart seq gap body =>
    let rest := body.words gap
    hdrWord body.typeCode (BitVec.ofNat 3 (h.val + 1)) restart (rest.length + 2) :: seq :: rest

/-- The length of a record in words (R131). -/
def Record.len (r : Record) : Nat := r.words.length

/-- The occupancy: the words still to be read (R130). -/
def RecordQueue.occupancy (q : RecordQueue) : Nat :=
  (q.records.map Record.len).sum - q.readPos

/-- The free space (R130). -/
def RecordQueue.free (q : RecordQueue) : Nat := Config.queueWords - q.occupancy

/-- The word at the read position, the empty word 0x0000 of an empty queue (R144, R145, R183). -/
def RecordQueue.word (q : RecordQueue) : Word :=
  match q.records with
  | [] => 0
  | r :: _ => r.words.getD q.readPos 0

/-- What Q_REMAIN reads: unread words of a partly read oldest record, else 0 (R147). -/
def RecordQueue.remain (q : RecordQueue) : Nat :=
  match q.records with
  | [] => 0
  | r :: _ => if q.readPos = 0 then 0 else r.len - q.readPos

/-! ## RESULT (Table 11.5) -/

/-- The outcome of a command: DONE, or REFUSED with its reason (R179). -/
inductive Verdict where
  | done | badHead | badArg | state
  | program (code : ValCode)
  | badSet | full
  deriving DecidableEq, Repr

/-- The reason code, bits 14:12. -/
def Verdict.reason : Verdict → BitVec 3
  | .done => 0
  | .badHead => 1
  | .badArg => 2
  | .state => 3
  | .program _ => 4
  | .badSet => 5
  | .full => 6

/-- The validation code a verdict carries, bits 10:8. -/
def Verdict.validation : Verdict → BitVec 3
  | .program c => valCode (some c)
  | .done | .badHead | .badArg | .state | .badSet | .full => 0

/-- RESULT after a command whose code is `code` (Table 11.5); bit 11, of no item, reads 0 (DESIGN CHOICE, log 24). -/
def resultWord (v : Verdict) (code : Byte) : Word :=
  BitVec.ofBool (v ≠ .done) ++ v.reason ++ 0#1 ++ v.validation ++ code

/-! ## Register images (Tables 11.1, 11.3) -/

/-- Code of an exposure-side state (Table 11.3). -/
def ExpState.code : ExpState → BitVec 4
  | .off => 0
  | .idle => 1
  | .armed => 2
  | .pacing => 3
  | .delay => 4
  | .strobeWait => 5
  | .exposing => 6
  | .extending => 7
  | .blocked => 8
  | .draining => 9
  | .fault => 10

/-- Code of a slot's state (Table 11.3). -/
def Slot.code : Slot → BitVec 2
  | .empty => 0
  | .queued _ => 1
  | .active _ => 2

/-- HEAD_STATn (R67, Table 11.3); bit 7, of no item, reads 0 (DESIGN CHOICE, log 24). -/
def Head.statWord (hd : Head) : Word :=
  BitVec.ofBool hd.ctx.latch.isSome ++ BitVec.ofBool hd.ctx.stopPending ++ BitVec.ofBool hd.ctx.group.isSome
    ++ BitVec.ofNat 5 hd.ctx.progIndex.val ++ 0#1 ++ BitVec.ofBool hd.ring.withdrawn ++ hd.slot.code ++ hd.state.code

/-- LINE_CFGn (Table 11.1). -/
def Line.cfgWord (l : Line) : Word :=
  BitVec.ofBool l.enabled ++ 0#6 ++ BitVec.ofBool l.activeLow ++ l.filter

/-- The qualified-active mark of LINE_STATE (R25). -/
def Line.activeMark (l : Line) : Bool :=
  match l.qualifier with
  | some q => l.isActive q.high
  | none => false

/-- The pending mark of LINE_STATE (R25). -/
def Line.pendingMark (l : Line) : Bool :=
  match l.qualifier with
  | some q => q.candidate.isSome
  | none => false

/-- RATEn_CTL (Table 11.1). -/
def RateGen.ctlWord (g : RateGen) : Word :=
  BitVec.ofBool g.run.isSome ++ 0#7 ++ g.decimation

/-- A channel's four bits of STROBE_STAT: waiting mark, holder present, holder head (R111). -/
def Channel.statBits (c : Channel) : BitVec 4 :=
  BitVec.ofBool (!c.waiters.isEmpty) ++ BitVec.ofBool c.holder.isSome
    ++ (match c.holder with
        | some h => BitVec.ofNat 2 h.val
        | none => 0)

/-- LINK_STAT (R127, Table 11.1 and its Notes). -/
def Arbiter.statWord (a : Arbiter) : Word :=
  let front : BitVec 2 := match a.queue with
    | h :: _ => BitVec.ofNat 2 h.val
    | [] => 0
  let count := BitVec.ofNat 3 a.queue.length
  match a.port with
  | .busy h tag _ => 1#1 ++ BitVec.ofNat 2 h.val ++ count ++ front ++ tag
  | .idle => 0#1 ++ 0#2 ++ count ++ front ++ a.tagCounter

/-- RING_SEL (Table 11.1). -/
def RingSel.word (r : RingSel) : Word :=
  0#2 ++ BitVec.ofNat 6 r.pos.val ++ 0#5 ++ BitVec.ofBool r.live ++ BitVec.ofNat 2 r.head.val

/-- The three parts of a RING_SEL write; a word position above 32 is stored as 32 (R86). -/
def RingSel.ofWord (w : Word) : RingSel :=
  { head := (w.extractLsb' 0 2).toFin
    live := w.getLsbD 2
    pos := ⟨min (w.extractLsb' 8 6).toNat 32, by omega⟩ }

/-- A word of marks, position n set where the n-th mark is. -/
def markWord {n : Nat} (w : Nat) (ixs : List (Fin n)) (p : Fin n → Bool) : BitVec w :=
  ixs.foldl (fun acc i => if p i then acc ||| (1#w <<< i.val) else acc) 0

/-! ## Link frames (Table 11.6) -/

/-- The bytes of a message's frame on LTX, check byte last (R182); bits 7:2 of START's byte 3, of no item, are 0 (DESIGN CHOICE,
log 24). -/
def Message.bytes (m : Message) : List Byte :=
  let body : List Byte := match m with
    | .start h tag gain =>
      [0xA1, BitVec.ofNat 8 h.val, tag, (gain.extractLsb' 8 2).zeroExtend 8, gain.extractLsb' 0 8]
    | .cancel tag => [0xA2, tag]
  body ++ [crc8 body]

end Sys2Proof.Machine
end

