-- ==== Sys2Proof/Machine/Flags.lean ====
section
/-! DEFINITION. The interrupt unit's causes, the output pins, and the other signals that follow from the state. -/

namespace Sys2Proof.Machine

/-! ## Causes at the places of IRQ_FLAGS (Table 11.1) -/

/-- LEVEL, bit 0. -/
def levelBit : Word := 0x0001
/-- LOST, bit 1. -/
def lostBit : Word := 0x0002
/-- DROP, bit 2. -/
def dropBit : Word := 0x0004
/-- STRAY, bit 3. -/
def strayBit : Word := 0x0008
/-- LINK, bit 4. -/
def linkBit : Word := 0x0010
/-- DONEn, bit 8 + n. -/
def doneBit (h : HeadIx) : Word := 0x0100 <<< h.val
/-- FAULTn, bit 12 + n. -/
def faultBit (h : HeadIx) : Word := 0x1000 <<< h.val

/-- The places of the thirteen causes. -/
def causeMask : Word := 0xFF1F
/-- The places of the twelve sticky causes (R169). -/
def stickyMask : Word := 0xFF1E

/-- The interrupt unit with a sticky flag raised; a flag set already stays set (R169). -/
def Interrupts.raise (i : Interrupts) (bit : Word) : Interrupts :=
  { i with flags := i.flags ||| (bit &&& stickyMask) }

/-- The interrupt unit after an IRQ_FLAGS write: each sticky flag written with a one is cleared (R170). -/
def Interrupts.clearBy (i : Interrupts) (w : Word) : Interrupts :=
  { i with flags := i.flags &&& ~~~w }

/-- The LEVEL condition: occupancy at or above the threshold (R148). -/
def RecordQueue.level (q : RecordQueue) : Bool := decide (q.threshold ≤ q.occupancy)

/-- What IRQ_FLAGS reads: the sticky flags and LEVEL (R169). -/
def State.causes (s : State) : Word :=
  (s.irq.flags &&& stickyMask) ||| (if s.queue.level then levelBit else 0)

/-- The interrupt request: some cause present and enabled (R171). -/
def State.irqRequest (s : State) : Bool := decide (s.causes &&& s.irq.enables ≠ 0)

/-! ## Output pins -/

/-- The level of IRQ: active under the configured polarity (R171). -/
def State.irqPin (s : State) : Bool := s.irqRequest == s.irq.activeHigh

/-- The level of EXPn (R53). -/
def State.expPin (s : State) (h : HeadIx) : Bool := (s.heads[h.val]'h.isLt).state.exposes

/-- Whether a channel is HELD (R97). -/
def Channel.held (c : Channel) : Bool := c.enabled && c.holder.isSome

/-- The level of STBn: active while HELD, under the polarity (R110). -/
def State.stbPin (s : State) (n : ChanIx) : Bool :=
  (s.chans[n.val]'n.isLt).held != (s.chans[n.val]'n.isLt).activeLow

/-- The bytes of the frame now on LTX, none while the line idles high (R119, R181, R182). -/
def State.ltxFrame (s : State) : List Byte :=
  match s.link.sending with
  | some m => m.bytes
  | none => []

end Sys2Proof.Machine
end

