-- ==== Sys2Proof/Machine/Ops.lean ====
section
/-! DEFINITION. The named operations over the state that the commands share: access to the blocks, records and drops,
exposure starts and ends, strobe channels, groups and bursts, the arbiter, the exposure-side teardown and head faults,
events and their routing. Each is written once, from the rule its docstring cites. -/

namespace Sys2Proof.Machine

/-! ## Access -/

/-- Head h. -/
def State.head (s : State) (h : HeadIx) : Head := s.heads[h.val]'h.isLt

/-- The state with head h replaced. -/
def State.setHead (s : State) (h : HeadIx) (hd : Head) : State :=
  { s with heads := s.heads.set h.val hd h.isLt }

/-- The state with head h changed by f. -/
def State.modHead (s : State) (h : HeadIx) (f : Head → Head) : State := s.setHead h (f (s.head h))

/-- Line n. -/
def State.line (s : State) (n : LineIx) : Line := s.lines[n.val]'n.isLt

/-- The state with line n replaced. -/
def State.setLine (s : State) (n : LineIx) (l : Line) : State :=
  { s with lines := s.lines.set n.val l n.isLt }

/-- The present level of TINn, true HIGH. -/
def State.pin (s : State) (n : LineIx) : Bool := s.tin[n.val]'n.isLt

/-- Rate generator g. -/
def State.rate (s : State) (g : RateIx) : RateGen := s.rates[g.val]'g.isLt

/-- The state with generator g replaced. -/
def State.setRate (s : State) (g : RateIx) (r : RateGen) : State :=
  { s with rates := s.rates.set g.val r g.isLt }

/-- Strobe channel n. -/
def State.chan (s : State) (n : ChanIx) : Channel := s.chans[n.val]'n.isLt

/-- The state with channel n replaced. -/
def State.setChan (s : State) (n : ChanIx) (c : Channel) : State :=
  { s with chans := s.chans.set n.val c n.isLt }

/-- Program entry n. -/
def State.entry (s : State) (n : EntryIx) : Entry := s.table[n.val]'n.isLt

/-- The timebase value: the timestamp an event takes (R165). -/
def State.now (s : State) : Stamp := s.tb.counter

/-- Raises a sticky cause (R169). -/
def State.raise (s : State) (bit : Word) : State := { s with irq := s.irq.raise bit }

/-! ## Records (R131, R139 to R142) -/

/-- The record a head forms now: its sequence number, RESTART while the mark is pending, GAP while records are lost. -/
def formRecord (h : HeadIx) (hd : Head) (body : Body) : Record :=
  .ofHead h hd.restart hd.seq (if hd.lost = 0 then none else some hd.lost) body

/-- A head offers a record: it takes the next sequence number and is admitted whole or lost (R139 to R142). -/
def offer (h : HeadIx) (body : Body) (s : State) : State :=
  let hd := s.head h
  let r := formRecord h hd body
  if r.len ≤ s.queue.free then
    { s.setHead h { hd with seq := hd.seq + 1, lost := 0, restart := false } with
      queue := { s.queue with records := s.queue.records ++ [r] } }
  else
    (s.setHead h { hd with seq := hd.seq + 1, lost := satInc hd.lost }).raise lostBit

/-- A drop: counted, DROP raised, and a DROP record offered under Drop Notices ON, with TIME when the mask asks for it
(R48, R134). -/
def dropTrigger (h : HeadIx) (reason : DropReason) (source : Option Source) (time : Stamp) (s : State) : State :=
  let s := (s.modHead h fun hd => { hd with drops := satInc hd.drops }).raise dropBit
  let p := (s.head h).ctx.prog
  if p.dropNotices then
    offer h (.drop reason source (if wantsTime p.fields then some time else none)) s
  else s

/-! ## Bracket rings -/

/-- A commit: the staged ring becomes the live ring, the pointer 0, the mark clear (R85). -/
def HeadRing.commit (r : HeadRing) : HeadRing :=
  { r with live := r.staged, pointer := 0, applyPending := false }

/-- The commit of a pending APPLY, at a group opening (R92) and when a head stops running (R93). -/
def HeadRing.commitPending (r : HeadRing) : HeadRing :=
  if r.applyPending then r.commit else r

/-- The pointer advances modulo the live length (R92, step 3). -/
def HeadRing.advance (r : HeadRing) : HeadRing :=
  { r with pointer := nextPointer r.pointer r.live.length }

/-- The set at the live pointer (R92, step 2). -/
def HeadRing.current (r : HeadRing) : SettingSet := r.live.sets[r.pointer.val]'r.pointer.isLt

/-- The ring after a SOFT_RESET or HEAD_RESET (R96). -/
def HeadRing.afterReset (r : HeadRing) : HeadRing :=
  { r with pointer := 0, applyPending := false, withdrawn := false }

/-! ## Exposure starts (R39, R51, R52) -/

/-- The group record at an opening, filled from the chosen set, the start's time and the pending start (R39). -/
def openRecord (r : HeadRing) (now : Stamp) (p : PendingStart) : GroupRecord :=
  { setIndex := r.pointer, integration := r.current.integration, gain := r.current.gain, tag := r.current.tag
    timestamp := now, cause := p.kind, latency := p.latency, span := 0
    stretched := false, dark := false, late := false, overrun := false }

/-- The group opening of an exposure start: with no group open the ring commits, chooses and advances, and the record is
filled; with a group open nothing (R51, R92). -/
def Head.openGroup (hd : Head) (now : Stamp) (p : PendingStart) : Head :=
  match hd.ctx.group with
  | some _ => hd
  | none =>
    let ring := hd.ring.commitPending
    { hd with ctx := { hd.ctx with group := some (openRecord ring now p) }, ring := ring.advance }

/-- The exposure start at a head, for its pending start p, with the lock of its channel or without it (R51, R52). -/
def Head.startExposure (hd : Head) (now : Stamp) (p : PendingStart) (locked : Bool) : Head :=
  let hd := hd.openGroup now p
  let prog := hd.ctx.prog
  let late := decide (p.kind = .paced) && hd.ctx.spacing.overdue
  let dark := prog.channel.isSome && !locked
  let group := hd.ctx.group.map fun g => { g with late := g.late || late, dark := g.dark || dark }
  { hd with
    state := .exposing
    ctx := { hd.ctx with
      group := group
      pendingStart := none
      spacing := match prog.repetition with
        | .timer => .running prog.spacing.toNat
        | .trigger => hd.ctx.spacing }
    timers := { HeadTimers.stopped with
      exposure := some 0
      integration := match prog.length with
        | .timed => group.map fun g => g.integration.toNat
        | .width => none
      widthLimit := match prog.length with
        | .timed => none
        | .width => some prog.widthLimit.toNat } }

/-- The exposure start of head h for its pending start; with none pending nothing happens (log 17). -/
def startExposure (h : HeadIx) (locked : Bool) (s : State) : State :=
  match (s.head h).ctx.pendingStart with
  | some p => s.modHead h fun hd => hd.startExposure s.now p locked
  | none => s

/-! ## Strobe channels (R97 to R109) -/

/-- The channel a head holds. -/
def State.heldBy (s : State) (h : HeadIx) : Option ChanIx :=
  allChans.find? fun n => decide ((s.chan n).holder = some h)

/-- A release at a channel: the oldest waiter becomes holder and its exposure starts; with no waiter the channel becomes
FREE (R103, R104). -/
def releaseAt (n : ChanIx) (s : State) : State :=
  match (s.chan n).waiters with
  | w :: ws => startExposure w true (s.setChan n { s.chan n with holder := some w, waiters := ws })
  | [] => s.setChan n { s.chan n with holder := none }

/-- A head releases the channel it holds, if any (R103). -/
def releaseStrobe (h : HeadIx) (s : State) : State :=
  match s.heldBy h with
  | some n => releaseAt n s
  | none => s

/-- A head leaves its waiter list; the others keep their order (R107). -/
def leaveWaiters (h : HeadIx) (s : State) : State :=
  { s with chans := mapAll (fun c => { c with waiters := c.waiters.filter fun w => decide (w ≠ h) }) s.chans }

/-- The claim of head h at channel n (R99, Table 6.2). -/
def claim (h : HeadIx) (n : ChanIx) (s : State) : State :=
  let c := s.chan n
  if !c.enabled then startExposure h false s
  else match c.holder with
    | none => startExposure h true (s.setChan n { c with holder := some h })
    | some _ =>
      match (s.head h).ctx.prog.policy with
      | .dark => startExposure h false s
      | .wait =>
        (s.setChan n { c with waiters := c.waiters ++ [h] }).modHead h fun hd =>
          { hd with
            state := .strobeWait
            timers := { HeadTimers.stopped with strobeWait := some hd.ctx.prog.strobeWait.toNat } }

/-- A start attempt for the pending start (R50). -/
def attemptStart (h : HeadIx) (s : State) : State :=
  match (s.head h).ctx.prog.channel with
  | none => startExposure h false s
  | some n => claim h n s

/-- A PACED pending start, with the expiry time as arrival and the overdue count as latency, and its attempt (R40, R58). -/
def pacedAttempt (h : HeadIx) (overdue : Word) (time : Stamp) (s : State) : State :=
  attemptStart h (s.modHead h fun hd =>
    { hd with
      ctx := { hd.ctx with pendingStart := some { kind := .paced, arrival := time, latency := overdue } }
      timers := { hd.timers with retry := .none } })

/-- Entering PACING: with the spacing timer expired the paced attempt is made at once (R58). -/
def enterPacing (h : HeadIx) (s : State) : State :=
  let s := s.modHead h fun hd => { hd with state := .pacing, timers := HeadTimers.stopped }
  match (s.head h).ctx.spacing with
  | .expired n t => pacedAttempt h n t s
  | .running _ | .stopped => s

/-! ## Acceptance (R40, R44, R75) -/

/-- A head goes on from an acceptance: its pending start is made, its starting source set under WIDTH, and it times its
Delay or makes its attempt at once (R44, R75). -/
def acceptStart (h : HeadIx) (p : PendingStart) (src : Source) (s : State) : State :=
  let prog := (s.head h).ctx.prog
  let s := s.modHead h fun hd =>
    { hd with ctx := { hd.ctx with pendingStart := some p, startLine := hd.ctx.prog.startLineFor src, latch := none } }
  if prog.delay = 0 then attemptStart h s
  else s.modHead h fun hd =>
    { hd with state := .delay, timers := { HeadTimers.stopped with delay := some prog.delay.toNat } }

/-! ## Readout queue and transmitter (R113, R116, R119) -/

/-- The priority class of the group in head h's slot; NORMAL for an EMPTY slot, which has no request (log 17). -/
def State.slotPriority (s : State) (h : HeadIx) : Priority :=
  match (s.head h).slot.group? with
  | some g => g.priority
  | none => .normal

/-- The queue with a request joined: URGENT behind the URGENT ones and ahead of every NORMAL one, NORMAL at the tail
(R113). -/
def joinQueue (q : List HeadIx) (h : HeadIx) (p : Priority) (isUrgent : HeadIx → Bool) : List HeadIx :=
  match p with
  | .normal => q ++ [h]
  | .urgent => q.takeWhile isUrgent ++ h :: q.dropWhile isUrgent

/-- A message is passed to the transmitter: it begins at once on an idle line, else it waits; a CANCEL whose START still
waits discards that START and itself (R119). -/
def LinkEnds.pass (l : LinkEnds) (m : Message) : LinkEnds :=
  let isStartOf (tag : Byte) : Message → Bool
    | .start _ t _ => decide (t = tag)
    | .cancel _ => false
  match m with
  | .cancel tag =>
    if l.waiting.any (isStartOf tag) then
      { l with waiting := l.waiting.filter fun x => !isStartOf tag x }
    else if l.sending.isNone then { l with sending := some m }
    else { l with waiting := l.waiting ++ [m] }
  | .start .. =>
    if l.sending.isNone then { l with sending := some m }
    else { l with waiting := l.waiting ++ [m] }

/-- The transmitter finishes its frame and begins the next message waiting (R119). -/
def LinkEnds.frameSent (l : LinkEnds) : LinkEnds :=
  match l.sending, l.waiting with
  | some _, m :: ms => { l with sending := some m, waiting := ms }
  | some _, [] => { l with sending := none }
  | none, _ => l

/-- Passes a message to the transmitter. -/
def passMessage (m : Message) (s : State) : State := { s with link := s.link.pass m }

/-- Whether the three conditions of a grant hold (R116). -/
def State.grantDue (s : State) : Bool :=
  decide (s.arb.port = .idle) && s.arb.linkEnable && !s.arb.queue.isEmpty

/-- The grant of request h, whose slot holds g (R116, steps 1 to 6). -/
def grantTo (h : HeadIx) (g : Completed) (rest : List HeadIx) (s : State) : State :=
  let tag := s.arb.tagCounter + 1
  passMessage (.start h tag (g.record.gain.extractLsb' 0 10))
    { s.modHead h (fun hd => { hd with slot := .active g }) with
      arb := { s.arb with queue := rest, tagCounter := tag, port := .busy h tag g.readoutLimit.toNat } }

/-- A grant to the front request when the three conditions hold, else nothing (R116). -/
def tryGrant (s : State) : State :=
  if s.grantDue then
    match s.arb.queue with
    | h :: rest =>
      match (s.head h).slot with
      | .queued g => grantTo h g rest s
      | .empty | .active _ => s
    | [] => s
  else s

/-! ## Burst ends (R62 to R66) -/

/-- Entering DRAINING: timers stopped, a pending APPLY committed (R93); with the slot EMPTY the head passes at once into
IDLE and raises DONE (R66). Stop-pending is cleared by the burst end (R154). -/
def enterDraining (h : HeadIx) (s : State) : State :=
  let s := s.modHead h fun hd =>
    { hd with
      state := if hd.slot = .empty then .idle else .draining
      ctx := { hd.ctx with pendingStart := none, startLine := none, spacing := .stopped, latch := none,
                           stopPending := false }
      timers := HeadTimers.stopped
      ring := hd.ring.commitPending }
  if (s.head h).slot = .empty then s.raise (doneBit h) else s

/-- An accepted load copies the entry into the context and clears the rest of it (R17, R37). -/
def Context.load (n : EntryIx) (p : Program) : Context :=
  { Context.cleared with progIndex := n, prog := p }

/-- A burst ends COMPLETE and its Link names entry n: the entry is validated as it stands; accepted, it is loaded and the
head chains; refused, the burst ends LINK_INVALID (R64, Table 3.5). -/
def chainTo (h : HeadIx) (n : EntryIx) (s : State) : State :=
  let old := (s.head h).ctx.progIndex
  match validate (s.entry n) with
  | some code => enterDraining h (offer h (.burstEnd .linkInvalid (some code) old (some n)) s)
  | none =>
    let p := (s.entry n).prog
    offer h (.burstEnd .complete none old (some n)) (s.modHead h fun hd =>
      { hd with
        state := match p.overlap with
          | .strict => .blocked
          | .overlap => .armed
        ctx := Context.load n p
        timers := HeadTimers.stopped })

/-- The decision after a group completion: the burst ends STOPPED, ends COMPLETE, or continues (R62, R65). -/
def decideBurst (h : HeadIx) (s : State) : State :=
  let c := (s.head h).ctx
  if c.stopPending then
    enterDraining h (offer h (.burstEnd .stopped none c.progIndex none) s)
  else if c.prog.burst ≠ 0 ∧ c.groupsDone = c.prog.burst then
    match c.prog.linkEntry with
    | some n => chainTo h n s
    | none => enterDraining h (offer h (.burstEnd .complete none c.progIndex none) s)
  else
    match c.prog.overlap, c.prog.repetition with
    | .strict, _ => s.modHead h fun hd => { hd with state := .blocked }
    | .overlap, .trigger => s.modHead h fun hd => { hd with state := .armed }
    | .overlap, .timer => enterPacing h s

/-! ## Exposure ends and group completion (R56, R60, R61) -/

/-- The actual end of an exposure: the channel is released, and the length is added to SPAN (R56, steps 1 to 3; EXPn
follows the state that the caller enters). -/
def endExposure (h : HeadIx) (s : State) : State :=
  (releaseStrobe h s).modHead h fun hd =>
    { hd with
      ctx := { hd.ctx with group := hd.ctx.group.map fun g =>
        { g with span := addSpan g.span (hd.timers.exposure.getD 0) } }
      timers := HeadTimers.stopped }

/-- A group completes: its record moves into the slot with Priority, Readout Limit and Fields mask, the request joins the
queue, the counters move, and the head decides its burst's course (R61). -/
def completeGroup (h : HeadIx) (s : State) : State :=
  match (s.head h).ctx.group with
  | none => s
  | some g =>
    let p := (s.head h).ctx.prog
    let isUrgent := fun k => decide (s.slotPriority k = .urgent)
    let done : Completed :=
      { record := g, priority := p.priority, readoutLimit := p.readoutLimit, fields := p.fields, aborted := false }
    decideBurst h
      { s.modHead h (fun hd =>
          { hd with
            slot := .queued done
            ctx := { hd.ctx with group := none, exposuresDone := 0, groupsDone := satInc hd.ctx.groupsDone } }) with
        arb := { s.arb with queue := joinQueue s.arb.queue h p.priority isUrgent } }

/-- The end condition of the exposure of an EXPOSING head (R54 to R56, R60): a last exposure with the slot full is held in
EXTENDING, another ends at once. -/
def endCondition (h : HeadIx) (overrun : Bool) (s : State) : State :=
  let s := s.modHead h fun hd =>
    { hd with
      ctx := { hd.ctx with
        startLine := none
        group := hd.ctx.group.map fun g => { g with overrun := g.overrun || overrun } }
      timers := { hd.timers with integration := none, widthLimit := none } }
  let hd := s.head h
  if hd.ctx.lastExposure then
    if hd.slot = .empty then completeGroup h (endExposure h s)
    else s.modHead h fun hd =>
      { hd with
        state := .extending
        ctx := { hd.ctx with group := hd.ctx.group.map fun g => { g with stretched := true } } }
  else
    let s := (endExposure h s).modHead h fun hd =>
      { hd with state := .armed, ctx := { hd.ctx with exposuresDone := hd.ctx.exposuresDone + 1 } }
    match hd.ctx.prog.repetition with
    | .trigger => s
    | .timer => enterPacing h s

/-! ## Teardown, faults and resets of a head (R150, R159, R162) -/

/-- The context after the exposure-side teardown: the program index and copy are kept (R150, steps 3 to 6). -/
def Context.tornDown (c : Context) : Context :=
  { Context.cleared with progIndex := c.progIndex, prog := c.prog }

/-- The exposure-side teardown (R150). The caller enters the state that follows. -/
def teardown (h : HeadIx) (s : State) : State :=
  (leaveWaiters h (releaseStrobe h s)).modHead h fun hd =>
    { hd with ctx := hd.ctx.tornDown, timers := HeadTimers.stopped }

/-- A head takes a fault: teardown, FAULT record, FAULTn, state FAULT; a pending APPLY commits (R93, R159). -/
def headFault (h : HeadIx) (code : FaultCode) (s : State) : State :=
  let n := (s.head h).discarded
  let s := offer h (.fault code n s.now) (teardown h s)
  (s.raise (faultBit h)).modHead h fun hd => { hd with state := .fault, ring := hd.ring.commitPending }

/-- A QUEUED request is removed without a grant; its slot becomes EMPTY (R114). -/
def removeRequest (h : HeadIx) (s : State) : State :=
  { s.modHead h (fun hd => { hd with slot := .empty }) with
    arb := { s.arb with queue := s.arb.queue.filter fun k => decide (k ≠ h) } }

/-- The port becomes IDLE and the active head's slot EMPTY (R122, R124, R125, step 3 or 2). -/
def freePort (h : HeadIx) (s : State) : State :=
  { s.modHead h (fun hd => { hd with slot := .empty }) with arb := { s.arb with port := .idle } }

/-- The cancellation of head h's active readout: CANCEL, IDLE port, EMPTY slot (R129). -/
def cancelReadout (h : HeadIx) (s : State) : State :=
  match s.arb.port with
  | .busy k tag _ => if k = h then passMessage (.cancel tag) (freePort h s) else s
  | .idle => s

/-- The slot's part of a HEAD_RESET (R162, step 2). -/
def resetSlot (h : HeadIx) (s : State) : State :=
  match (s.head h).slot with
  | .empty => s
  | .queued _ => removeRequest h s
  | .active _ => cancelReadout h s

/-- The head's own part of a reset: context, counters, RESTART mark, ring and state (R162, steps 3 to 6; R69, R96,
R149). -/
def Head.afterReset (hd : Head) : Head :=
  { hd with
    state := if hd.enabled then .idle else .off
    ctx := Context.cleared
    timers := HeadTimers.stopped
    slot := .empty
    ring := hd.ring.afterReset
    drops := 0, seq := 0, lost := 0, restart := true }

/-- The HEAD_RESET actions (R162). -/
def headReset (h : HeadIx) (s : State) : State :=
  (resetSlot h (teardown h s)).modHead h Head.afterReset

/-- A head's mark in HEAD_EN is set: OFF to IDLE with a cleared context and an EMPTY slot; on an enabled head nothing
(R36). -/
def enableHead (h : HeadIx) (s : State) : State :=
  if (s.head h).enabled then s
  else s.modHead h fun hd =>
    { hd with enabled := true, state := .idle, ctx := Context.cleared, timers := HeadTimers.stopped, slot := .empty }

/-- A head's mark in HEAD_EN is cleared: the HEAD_RESET actions, then OFF; on a head in OFF nothing (R36, R163). -/
def disableHead (h : HeadIx) (s : State) : State :=
  if (s.head h).enabled then
    (headReset h s).modHead h fun hd => { hd with enabled := false, state := .off }
  else s

/-! ## Events at a head (R44 to R47, R55, R73) -/

/-- An assert is offered to head h (R32) and, where it reaches it, accepted, latched or dropped (Table 3.4, R73). -/
def receiveAssert (src : Source) (time : Stamp) (h : HeadIx) (s : State) : State :=
  let hd := s.head h
  if hd.assertReaches src then
    match hd.state with
    | .armed => acceptStart h { kind := .triggered src, arrival := time, latency := 0 } src s
    | .blocked =>
      if hd.ctx.nextTriggered then
        match hd.ctx.latch with
        | none => s.modHead h fun hd =>
            { hd with ctx := { hd.ctx with latch := some { source := src, arrival := time, age := 0 } } }
        | some _ => dropTrigger h .latchFull (some src) time s
      else dropTrigger h .early (some src) time s
    | .pacing | .delay | .strobeWait | .exposing | .extending => dropTrigger h .early (some src) time s
    | .off | .idle | .draining | .fault => s
  else s

/-- The SHORT cancellation: the pending start is dropped with its own arrival time, and the head enters ARMED (R47). -/
def shortStart (h : HeadIx) (n : LineIx) (s : State) : State :=
  let time := match (s.head h).ctx.pendingStart with
    | some p => p.arrival
    | none => s.now
  let s := (leaveWaiters h s).modHead h fun hd =>
    { hd with
      state := .armed
      ctx := { hd.ctx with pendingStart := none, startLine := none }
      timers := HeadTimers.stopped }
  dropTrigger h .short (some (.line n)) time s

/-- A release of line n is offered to head h (R33): it cancels a pending start SHORT, or ends the exposure (R47, R55). -/
def receiveRelease (n : LineIx) (h : HeadIx) (s : State) : State :=
  let hd := s.head h
  if hd.releaseReaches n then
    match hd.state with
    | .delay | .strobeWait => shortStart h n s
    | .exposing => endCondition h false s
    | .armed | .pacing | .extending | .blocked | .off | .idle | .draining | .fault => s
  else s

/-! ## Turns of the heads (R34, R36, R117) -/

/-- A grant whose conditions hold is taken here, or waits for another moment: a free choice (R116, R117; log 4). -/
def grantOrNot (s : State) : State :=
  if s.grantDue then
    let t := { s with choices := s.choices + 1 }
    if Config.grantFirst s.choices then tryGrant t else t
  else s

/-- The heads of a list act one after the other, each whole in its turn; a grant that has come due may fall between two
turns (R34, R36, R117; log 3, 4). -/
def inTurn (act : HeadIx → State → State) : List HeadIx → State → State
  | [], s => s
  | h :: rest, s => inTurn act rest (if rest.isEmpty then act h s else grantOrNot (act h s))

/-! ## Delivery (R34) -/

/-- The heads of a list in an order the spec leaves open: at most one head has one order; more take the order of a free
value, and the model's counter moves (log 3). -/
def chooseOrder (l : List HeadIx) (s : State) : List HeadIx × State :=
  if l.length ≤ 1 then (l, s)
  else (arrange l.length (Config.headOrder s.choices) l, { s with choices := s.choices + 1 })

/-- An assert is offered to the heads of a list, each whole in its turn (R31, R32, R34). No assert joins or frees a request,
so a grant between two turns would show no other outcome than one before or after them. -/
def deliverAssert (src : Source) (time : Stamp) (heads : List HeadIx) (s : State) : State :=
  let (order, s) := chooseOrder (heads.filter fun h => (s.head h).assertReaches src) s
  order.foldl (fun s h => receiveAssert src time h s) s

/-- A release of line n is offered to every head. One release may complete the groups of several heads, and a grant may
fall between two of their joins (R33, R34, R117; log 3, 4). -/
def deliverRelease (n : LineIx) (s : State) : State :=
  let (order, s) := chooseOrder (allHeads.filter fun h => (s.head h).releaseReaches n) s
  inTurn (receiveRelease n) order s

/-! ## The emptying of a slot (R42, R66, R74, R81) -/

/-- A BLOCKED head whose slot emptied: Table 4.1 (R74, R75). -/
def leaveBlocked (h : HeadIx) (s : State) : State :=
  let c := (s.head h).ctx
  match c.latch with
  | some l => acceptStart h { kind := .latched l.source, arrival := l.arrival, latency := l.age } l.source s
  | none =>
    if c.nextTriggered then s.modHead h fun hd => { hd with state := .armed }
    else enterPacing h s

/-- The head is notified that its slot is EMPTY after a matching completion (R42). -/
def slotEmptied (h : HeadIx) (s : State) : State :=
  match (s.head h).state with
  | .draining => (s.modHead h fun hd => { hd with state := .idle }).raise (doneBit h)
  | .blocked => leaveBlocked h s
  | .extending => completeGroup h (endExposure h s)
  | .off | .idle | .armed | .pacing | .delay | .strobeWait | .exposing | .fault => s

end Sys2Proof.Machine
end

