-- ==== Sys2Proof/Machine/Port.lean ====
section
/-! DEFINITION. What every host word does at the host port, whatever its register: the transaction it belongs to and the
address after it (R173 to R175), and the RESULT of a command (R178, R179). A word's row stands for the word in a transaction of
its direction at its register; where none is open there, the row includes the selection that opens it (log 5). -/

namespace Sys2Proof.Machine

/-- The current address after a word transferred in full: one more, 0x7F followed by 0x00; a port register holds it
(R174). -/
def nextAddr (a : Addr) : Addr :=
  if Config.portRegisters.contains a then a else a + 1

/-- The port after a word written to the register at `a` (R174). -/
def afterWrite (a : Addr) (s : State) : State :=
  { s with port := { s.port with transaction := some { read := false, addr := nextAddr a }, sdo := none } }

/-- The port after the word `w` was read from the register at `a` (R174, R175). -/
def afterRead (a : Addr) (w : Word) (s : State) : State :=
  { s with port := { s.port with transaction := some { read := true, addr := nextAddr a }, sdo := some w } }

/-- CMD's address (Table 11.1). -/
def cmdAddr : Addr := 0x02

/-- A command is taken: it acts with ARG0 and ARG1 as they stand, CMD keeps the word, RESULT gets the outcome (R178). -/
def takeWith (act : State → Verdict × State) (upper code : Byte) (s : State) : State :=
  let (v, t) := act s
  { t with port := { t.port with cmd := upper ++ code, result := resultWord v code } }

/-- A command word of the row `c`, written at CMD. -/
def commandWord (c : CmdName) (act : State → Verdict × State) (upper : Byte) (s : State) : State :=
  afterWrite cmdAddr (takeWith act upper (codeOfCmd c) s)

/-- A command that acts on the head in ARG0, refused with BAD_HEAD above 3. -/
def onHead (act : HeadIx → State → Verdict × State) (s : State) : Verdict × State :=
  match headArg s.port.arg0 with
  | some h => act h s
  | none => (.badHead, s)

end Sys2Proof.Machine
end

