-- ==== Sys2Proof/Machine/Heads.lean ====
section
/-! DEFINITION. The heads' commands and timers: START, STOP, ABORT, CLEAR, HEAD_RESET, HEAD_EN, HEAD_DROPn, and the
expiries of the delay, integration, width-limit, spacing and strobe wait timers. -/

namespace Sys2Proof.Machine

/-! ## START (R43) -/

/-- START(head, program), its checks in the order of Table 3.3; an accepted one loads the entry and arms the head
(R17, R37, R43). -/
def cmdStart (s : State) : Verdict × State :=
  match headArg s.port.arg0 with
  | none => (.badHead, s)
  | some h =>
    match entryArg s.port.arg1 with
    | none => (.badArg, s)
    | some n =>
      if (s.head h).state = .idle then
        match validate (s.entry n) with
        | some code => (.program code, s)
        | none => (.done, s.modHead h fun hd =>
            { hd with state := .armed, ctx := Context.load n (s.entry n).prog, timers := HeadTimers.stopped })
      else (.state, s)

/-- START (R43). -/
def execStart (upper : Byte) (s : State) : Host.Outcome State Fault Refusal :=
  .next (commandWord .start cmdStart upper s)

/-! ## STOP (R152 to R154) -/

/-- STOP at a head: nothing when it runs no burst, stop-pending with a group open, else the burst ends at once with an
END STOPPED record (R152 to R154). -/
def stopHead (h : HeadIx) (s : State) : State :=
  let hd := s.head h
  if hd.state.running then
    if hd.ctx.group.isSome then s.modHead h fun hd => { hd with ctx := { hd.ctx with stopPending := true } }
    else enterDraining h (offer h (.burstEnd .stopped none hd.ctx.progIndex none) (teardown h s))
  else s

/-- STOP(head): BAD_HEAD above 3, else DONE (R152). -/
def cmdStop (s : State) : Verdict × State :=
  onHead (fun h s => (.done, stopHead h s)) s

/-- STOP (R152). -/
def execStop (upper : Byte) (s : State) : Host.Outcome State Fault Refusal :=
  .next (commandWord .stop cmdStop upper s)

/-! ## ABORT (R156) -/

/-- The slot's part of an ABORT, with the fate it notes (R156, step 2). -/
def abortSlot (h : HeadIx) (s : State) : SlotFate × State :=
  match (s.head h).slot with
  | .empty => (.none, s)
  | .queued _ => (.unqueued, removeRequest h s)
  | .active g => (.readoutContinues, s.modHead h fun hd => { hd with slot := .active { g with aborted := true } })

/-- The state after an ABORT: DRAINING while the slot is ACTIVE, else IDLE with DONE; a pending APPLY commits (R93,
R156, step 4). -/
def abortState (h : HeadIx) (fate : SlotFate) (s : State) : State :=
  match fate with
  | .readoutContinues => s.modHead h fun hd => { hd with state := .draining, ring := hd.ring.commitPending }
  | .none | .unqueued =>
    (s.modHead h fun hd => { hd with state := .idle, ring := hd.ring.commitPending }).raise (doneBit h)

/-- ABORT at a head: nothing in OFF, IDLE and FAULT; else teardown, slot, ABORT record, state (R156). -/
def abortHead (h : HeadIx) (s : State) : State :=
  match (s.head h).state with
  | .off | .idle | .fault => s
  | .armed | .pacing | .delay | .strobeWait | .exposing | .extending | .blocked | .draining =>
    let (fate, t) := abortSlot h (teardown h s)
    abortState h fate (offer h (.abort (s.head h).discarded fate) t)

/-- ABORT(head): BAD_HEAD above 3, else DONE (R156). -/
def cmdAbort (s : State) : Verdict × State :=
  onHead (fun h s => (.done, abortHead h s)) s

/-- ABORT (R156). -/
def execAbort (upper : Byte) (s : State) : Host.Outcome State Fault Refusal :=
  .next (commandWord .abort cmdAbort upper s)

/-! ## CLEAR (R161), HEAD_RESET (R162) -/

/-- CLEAR(head): FAULT to IDLE, else refused with STATE (R161). -/
def cmdClear (s : State) : Verdict × State :=
  onHead (fun h s =>
    if (s.head h).state = .fault then (.done, s.modHead h fun hd => { hd with state := .idle })
    else (.state, s)) s

/-- CLEAR (R161). -/
def execClear (upper : Byte) (s : State) : Host.Outcome State Fault Refusal :=
  .next (commandWord .clear cmdClear upper s)

/-- HEAD_RESET(head): BAD_HEAD above 3, else DONE in any state (R162). -/
def cmdHeadReset (s : State) : Verdict × State :=
  onHead (fun h s => (.done, headReset h s)) s

/-- HEAD_RESET (R162). -/
def execHeadReset (upper : Byte) (s : State) : Host.Outcome State Fault Refusal :=
  .next (commandWord .headReset cmdHeadReset upper s)

/-! ## HEAD_EN (R36, R163), HEAD_DROPn (R49) -/

/-- HEAD_EN's address (Table 11.1). -/
def headEnAddr : Addr := 0x34

/-- A head's mark takes the value written for it (R36). -/
def setHeadEnable (h : HeadIx) (on : Bool) (s : State) : State :=
  if on then enableHead h s else disableHead h s

/-- A HEAD_EN write: each head whose mark it changes, each on its own, in an order the spec leaves open. Where one word
disables the active head and a head whose request waits, the grant to that request may fall between the two (R36, R114; log 3,
4). -/
def writeHeadEn (w : Word) (s : State) : State :=
  let (order, s) := chooseOrder (allHeads.filter fun h => (s.head h).enabled != w.getLsbD h.val) s
  inTurn (fun h => setHeadEnable h (w.getLsbD h.val)) order s

/-- HEAD_ENABLE: a HEAD_EN write that sets head h's mark and leaves the others (R36). -/
def execHeadEnable (h : HeadIx) (s : State) : Host.Outcome State Fault Refusal :=
  .next (afterWrite headEnAddr (enableHead h s))

/-- HEAD_DISABLE: a HEAD_EN write that clears head h's mark and leaves the others (R36, R163). -/
def execHeadDisable (h : HeadIx) (s : State) : Host.Outcome State Fault Refusal :=
  .next (afterWrite headEnAddr (disableHead h s))

/-- Head h's drop counter becomes 0 (R49). -/
def clearDrops (h : HeadIx) (s : State) : State := s.modHead h fun hd => { hd with drops := 0 }

/-- HEAD_DROP_CLEAR: a write of any value to HEAD_DROPn (R49). -/
def execHeadDropClear (h : HeadIx) (s : State) : Host.Outcome State Fault Refusal :=
  .next (afterWrite (0x2C#7 + BitVec.ofNat 7 h.val) (clearDrops h s))

/-! ## Expiries; with none due nothing happens (log 2) -/

/-- Whether head h's delay timer is due: in DELAY with no tick left (R45). -/
def Head.delayDue (hd : Head) : Bool := decide (hd.state = .delay) && decide (hd.timers.delay = some 0)

/-- Whether the integration timer is due (R54). -/
def Head.integrationDue (hd : Head) : Bool :=
  decide (hd.state = .exposing) && decide (hd.timers.integration = some 0)

/-- Whether the width-limit timer is due (R55). -/
def Head.widthLimitDue (hd : Head) : Bool :=
  decide (hd.state = .exposing) && decide (hd.timers.widthLimit = some 0)

/-- Whether the spacing timer is due (R59). -/
def Head.spacingDue (hd : Head) : Bool := decide (hd.ctx.spacing = .running 0)

/-- Whether the strobe wait timer is due (R105). -/
def Head.strobeWaitDue (hd : Head) : Bool :=
  decide (hd.state = .strobeWait) && decide (hd.timers.strobeWait = some 0)

/-- Whether the tick that a paced retry waited for has come (R105). -/
def Head.retryDue (hd : Head) : Bool := decide (hd.state = .pacing) && decide (hd.timers.retry = .due)

/-- The delay expiry makes a start attempt for the pending start (R45). -/
def expireDelay (h : HeadIx) (s : State) : State :=
  if (s.head h).delayDue then
    attemptStart h (s.modHead h fun hd => { hd with timers := { hd.timers with delay := none } })
  else s

/-- The spacing expiry: the timer keeps its expiry time and starts its overdue count; in PACING it makes the paced
attempt (R41, R58, R59). -/
def expireSpacing (h : HeadIx) (s : State) : State :=
  if (s.head h).spacingDue then
    let t := s.modHead h fun hd => { hd with ctx := { hd.ctx with spacing := .expired 0 s.now } }
    if (s.head h).state = .pacing then pacedAttempt h 0 s.now t else t
  else s

/-- The expiry of a strobe wait: the head leaves the list, its start is dropped STROBE_TIMEOUT, and it goes on by the
start's kind (R105). -/
def expireStrobeWait (h : HeadIx) (s : State) : State :=
  if (s.head h).strobeWaitDue then
    match (s.head h).ctx.pendingStart with
    | none => s
    | some p =>
      let s := (leaveWaiters h s).modHead h fun hd =>
        { hd with
          state := .armed
          ctx := { hd.ctx with pendingStart := none, startLine := none }
          timers := HeadTimers.stopped }
      match p.kind with
      | .triggered src => dropTrigger h .strobeTimeout (some src) p.arrival s
      | .latched src => dropTrigger h .strobeTimeout (some src) p.arrival s
      | .paced =>
        let s := dropTrigger h .strobeTimeout none p.arrival s
        if (s.head h).ctx.prog.strobeWait = 0 then
          s.modHead h fun hd => { hd with state := .pacing, timers := { HeadTimers.stopped with retry := .waiting } }
        else enterPacing h s
  else s

/-- DELAY_EXPIRY (R45). -/
def execDelayExpiry (h : HeadIx) (s : State) : Host.Outcome State Fault Refusal := .next (expireDelay h s)

/-- INTEGRATION_EXPIRY (R54). -/
def execIntegrationExpiry (h : HeadIx) (s : State) : Host.Outcome State Fault Refusal :=
  .next (if (s.head h).integrationDue then endCondition h false s else s)

/-- WIDTH_LIMIT_EXPIRY: the exposure ends with OVERRUN (R55). -/
def execWidthLimitExpiry (h : HeadIx) (s : State) : Host.Outcome State Fault Refusal :=
  .next (if (s.head h).widthLimitDue then endCondition h true s else s)

/-- SPACING_EXPIRY (R59). -/
def execSpacingExpiry (h : HeadIx) (s : State) : Host.Outcome State Fault Refusal := .next (expireSpacing h s)

/-- STROBE_WAIT_EXPIRY (R105). -/
def execStrobeWaitExpiry (h : HeadIx) (s : State) : Host.Outcome State Fault Refusal := .next (expireStrobeWait h s)

/-- OVERDUE_TICK_ATTEMPT: the paced attempt at the tick after a wait that expired at once (R58, R105). -/
def execOverdueTickAttempt (h : HeadIx) (s : State) : Host.Outcome State Fault Refusal :=
  .next (if (s.head h).retryDue then enterPacing h s else s)

end Sys2Proof.Machine
end

