-- ==== Sys2Proof/Machine/Programs.lean ====
section
/-! DEFINITION. The table commands: PROGRAM_WRITE, PROGRAM_READ, PROGRAM_CLEAR (R13 to R15). -/

namespace Sys2Proof.Machine

/-- The state with entry n replaced. -/
def State.setEntry (s : State) (n : EntryIx) (e : Entry) : State :=
  { s with table := s.table.set n.val e n.isLt }

/-- PROGRAM_WRITE(n): the buffer's codes, valid mark set, no check (R13). -/
def cmdProgramWrite (s : State) : Verdict × State :=
  match entryArg s.port.arg0 with
  | some n => (.done, s.setEntry n { valid := true, prog := programOfBuffer s.buffer })
  | none => (.badArg, s)

/-- PROGRAM_READ(n): the entry's codes and valid mark, other positions zero (R14). -/
def cmdProgramRead (s : State) : Verdict × State :=
  match entryArg s.port.arg0 with
  | some n => (.done, { s with buffer := bufferOfEntry (s.entry n) })
  | none => (.badArg, s)

/-- PROGRAM_CLEAR(n): the valid mark clear, the codes kept (R15). -/
def cmdProgramClear (s : State) : Verdict × State :=
  match entryArg s.port.arg0 with
  | some n => (.done, s.setEntry n { s.entry n with valid := false })
  | none => (.badArg, s)

/-- PROGRAM_WRITE (R13). -/
def execProgramWrite (upper : Byte) (s : State) : Host.Outcome State Fault Refusal :=
  .next (commandWord .programWrite cmdProgramWrite upper s)

/-- PROGRAM_READ (R14). -/
def execProgramRead (upper : Byte) (s : State) : Host.Outcome State Fault Refusal :=
  .next (commandWord .programRead cmdProgramRead upper s)

/-- PROGRAM_CLEAR (R15). -/
def execProgramClear (upper : Byte) (s : State) : Host.Outcome State Fault Refusal :=
  .next (commandWord .programClear cmdProgramClear upper s)

end Sys2Proof.Machine
end

