-- ==== Sys2Proof/Machine/Readout.lean ====
section
/-! DEFINITION. The readout arbiter and the digitizer link: grants, completions, link errors, the readout timeout
(R113 to R128). -/

namespace Sys2Proof.Machine

/-! ## Link enable and grant (R116, R118) -/

/-- LINK_CFG's address (Table 11.1). -/
def linkCfgAddr : Addr := 0x58

/-- A LINK_CFG write: setting a clear enable makes a grant at once when the port is IDLE and a request waits (R118). -/
def writeLinkCfg (on : Bool) (s : State) : State :=
  let t := { s with arb := { s.arb with linkEnable := on } }
  if on && !s.arb.linkEnable then tryGrant t else t

/-- LINK_ENABLE (R118). -/
def execLinkEnable (s : State) : Host.Outcome State Fault Refusal :=
  .next (afterWrite linkCfgAddr (writeLinkCfg true s))

/-- LINK_DISABLE (R118). -/
def execLinkDisable (s : State) : Host.Outcome State Fault Refusal :=
  .next (afterWrite linkCfgAddr (writeLinkCfg false s))

/-- GRANT: made when its three conditions hold (R116). -/
def execGrant (s : State) : Host.Outcome State Fault Refusal := .next (tryGrant s)

/-- FRAME_SENT: the transmitter begins the next message waiting (R119). -/
def execFrameSent (s : State) : Host.Outcome State Fault Refusal :=
  .next { s with link := s.link.frameSent }

/-! ## Completions (R121 to R124) -/

/-- A stray completion: counted, STRAY raised, otherwise ignored (R121). -/
def strayCompletion (s : State) : State :=
  { s with arb := { s.arb with stray := satInc s.arb.stray } }.raise strayBit

/-- What the CAPTURE record of a slot's group says (R123, R132, R133). -/
def captureBody (g : Completed) (status : Status) (level : Word) : Body :=
  let r := g.record
  .capture
    { stretched := r.stretched, dark := r.dark, late := r.late, aborted := g.aborted, overrun := r.overrun
      digerr := status = .error }
    (if wantsTime g.fields then some r.timestamp else none)
    (if wantsSpan g.fields then some r.span else none)
    (if wantsSet g.fields then some (r.setIndex, r.tag, r.gain) else none)
    (if wantsCause g.fields then some (r.cause, r.latency) else none)
    (if wantsResult g.fields then some (status, level) else none)

/-- The slot has emptied: the head is notified, and the grant conditions are examined anew. Where the head's own request
is about to join and another waits, the spec leaves open which comes first; the grant of another moment is the command GRANT
(R117, R122, step 3 and 4; log 4). -/
def notifyEmptied (h : HeadIx) (s : State) : State :=
  slotEmptied h (if (s.head h).state = .extending then grantOrNot s else s)

/-- A matching GOOD or ERROR completion of head h's readout (R122). -/
def captureReadout (h : HeadIx) (status : Status) (level : Word) (s : State) : State :=
  let s := match (s.head h).slot with
    | .active g => offer h (captureBody g status level) s
    | .empty | .queued _ => s
  notifyEmptied h (freePort h s)

/-- An accepted COMPLETE message, matched on its tag alone (R121). -/
def takeComplete (tag : Byte) (status : Status) (level : Word) (s : State) : State :=
  match s.arb.port with
  | .idle => strayCompletion s
  | .busy h active _ =>
    if tag = active then
      match status with
      | .good | .error => captureReadout h status level s
      | .reject => headFault h .rejected (freePort h s)
    else strayCompletion s

/-- A frame that fails the examination: counted, LINK raised, discarded (R120). -/
def countLinkError (s : State) : State :=
  { s with arb := { s.arb with linkErrors := satInc s.arb.linkErrors } }.raise linkBit

/-- Six bytes arrive as a frame: examined and taken as a COMPLETE or as a link error; a receiver that waits for idle takes
no frame (R120, R181). -/
def receiveFrame (f : RxFrame) (s : State) : State :=
  if s.link.rxWaitsIdle then s
  else match examineFrame f with
    | some (tag, status, level) => takeComplete tag status level s
    | none => countLinkError s

/-- COMPLETE: the frame that carries the message arrives (R120, R121). -/
def execComplete (tag : Byte) (status : Status) (level : Word) (s : State) : Host.Outcome State Fault Refusal :=
  .next (if s.link.rxWaitsIdle then s else takeComplete tag status level s)

/-- LINK_ERROR: six bytes that fail the examination arrive (R120). -/
def execLinkError (f : RxFrame) (s : State) : Host.Outcome State Fault Refusal := .next (receiveFrame f s)

/-- SHORT_FRAME: a frame cut short counts as failing its check, and the receiver waits for idle (R181). -/
def execShortFrame (s : State) : Host.Outcome State Fault Refusal :=
  .next (if s.link.rxWaitsIdle then s
    else { countLinkError s with link := { s.link with rxWaitsIdle := true } })

/-- BYTE_TIME_IDLE: the receiver takes the next start bit as a frame's (R181). -/
def execByteTimeIdle (s : State) : Host.Outcome State Fault Refusal :=
  .next { s with link := { s.link with rxWaitsIdle := false } }

/-! ## Readout timeout (R125), counters (R128) -/

/-- The readout timer runs out: CANCEL, EMPTY slot, IDLE port, head fault (R125); with none due nothing happens (log 2). -/
def expireReadout (s : State) : State :=
  match s.arb.port with
  | .busy h tag 0 => headFault h .readoutTimeout (freePort h (passMessage (.cancel tag) s))
  | .busy _ _ (_ + 1) => s
  | .idle => s

/-- READOUT_TIMEOUT (R125). -/
def execReadoutTimeout (s : State) : Host.Outcome State Fault Refusal := .next (expireReadout s)

/-- LINK_CNT's address (Table 11.1). -/
def linkCntAddr : Addr := 0x5A

/-- Both counters become 0 (R128). -/
def clearLinkCounts (s : State) : State := { s with arb := { s.arb with stray := 0, linkErrors := 0 } }

/-- LINK_CNT_CLEAR: a write of any value to LINK_CNT (R128). -/
def execLinkCntClear (s : State) : Host.Outcome State Fault Refusal :=
  .next (afterWrite linkCntAddr (clearLinkCounts s))

end Sys2Proof.Machine
end

