-- ==== Sys2Proof/Machine/Records.lean ====
section
/-! DEFINITION. The record queue as the host uses it: MARK, DISCARD, Q_PORT, Q_THRESH (R138, R144 to R148). -/

namespace Sys2Proof.Machine

/-- MARK(tag): appended with 2 words free, else refused with FULL (R138). -/
def cmdMark (s : State) : Verdict × State :=
  if 2 ≤ s.queue.free then
    (.done, { s with queue := { s.queue with records := s.queue.records ++ [.mark s.port.arg0] } })
  else (.full, s)

/-- MARK (R138). -/
def execMark (upper : Byte) (s : State) : Host.Outcome State Fault Refusal :=
  .next (commandWord .mark cmdMark upper s)

/-- The queue without its oldest record (R146). -/
def RecordQueue.dropOldest (q : RecordQueue) : RecordQueue :=
  match q.records with
  | [] => q
  | _ :: rs => { q with records := rs, readPos := 0 }

/-- DISCARD: the oldest record's remaining words, or the whole of it; always DONE (R146). -/
def cmdDiscard (s : State) : Verdict × State :=
  (.done, { s with queue := s.queue.dropOldest })

/-- DISCARD (R146). -/
def execDiscard (upper : Byte) (s : State) : Host.Outcome State Fault Refusal :=
  .next (commandWord .discard cmdDiscard upper s)

/-- The queue after a word read in full: the read position advances, and a record read to its end leaves (R144); an
empty queue is unchanged (R145). -/
def RecordQueue.readOne (q : RecordQueue) : RecordQueue :=
  match q.records with
  | [] => q
  | r :: rs =>
    if r.len ≤ q.readPos + 1 then { q with records := rs, readPos := 0 }
    else { q with readPos := q.readPos + 1 }

/-- Q_PORT's address (Table 11.1). -/
def qPortAddr : Addr := 0x60

/-- The state after a Q_PORT word read in full (R144, R145). -/
def takeQueueWord (s : State) : State := { s with queue := s.queue.readOne }

/-- QUEUE_READ: a full Q_PORT read (R144, R145). -/
def execQueueRead (s : State) : Host.Outcome State Fault Refusal :=
  .next (afterRead qPortAddr s.queue.word (takeQueueWord s))

/-- The threshold stored for a value written: 0 as 1, above 512 as 512 (R148). -/
def clampThreshold (w : Word) : Nat := max 1 (min Config.queueWords w.toNat)

/-- A Q_THRESH write (R148). -/
def writeThreshold (w : Word) (s : State) : State :=
  { s with queue := { s.queue with threshold := clampThreshold w } }

/-- Q_THRESH's address (Table 11.1). -/
def qThreshAddr : Addr := 0x64

/-- Q_THRESH_WRITE (R148). -/
def execQThreshWrite (w : Word) (s : State) : Host.Outcome State Fault Refusal :=
  .next (afterWrite qThreshAddr (writeThreshold w s))

end Sys2Proof.Machine
end

