-- ==== Sys2Proof/Machine/Resets.lean ====
section
/-! DEFINITION. The resets of the whole part: SOFT_RESET (R180 and each block's own rule) and power-on reset (R184). -/

namespace Sys2Proof.Machine

/-- SOFT_RESET at a line whose pin stands at `pin`: an enabled line takes the present level, its candidate ends (R26). -/
def Line.softReset (pin : Bool) (l : Line) : Line :=
  { l with qualifier := l.qualifier.map fun _ => { high := pin, candidate := none } }

/-- SOFT_RESET at a rate generator: disabled, its period registers and code kept (R27). -/
def RateGen.softReset (g : RateGen) : RateGen := { g with run := none }

/-- SOFT_RESET at a strobe channel: no holder, no waiter, enable and polarity kept (R112). -/
def Channel.softReset (c : Channel) : Channel := { c with holder := none, waiters := [] }

/-- SOFT_RESET at the link: a readout in progress is cancelled with a CANCEL; the receiver stays (R119, R129, R181). -/
def LinkEnds.softReset (l : LinkEnds) (p : Port) : LinkEnds :=
  match p with
  | .busy _ tag _ => l.pass (.cancel tag)
  | .idle => l

/-- SOFT_RESET: every block's actions at once, the named configuration kept (R1, R2, R26, R27, R69, R86, R96, R112, R129,
R149, R165, R172, R180; log 10). -/
def softReset (s : State) : State :=
  { s with
    lines := zipAll Line.softReset s.tin s.lines
    rates := mapAll RateGen.softReset s.rates
    heads := mapAll Head.afterReset s.heads
    chans := mapAll Channel.softReset s.chans
    arb := { s.arb with queue := [], port := .idle, stray := 0, linkErrors := 0 }
    link := s.link.softReset s.arb.port
    queue := { s.queue with records := [], readPos := 0 }
    irq := { s.irq with flags := 0 } }

/-- SOFT_RESET: always DONE (R180). -/
def cmdSoftReset (s : State) : Verdict × State := (.done, softReset s)

/-- SOFT_RESET (R180). -/
def execSoftReset (upper : Byte) (s : State) : Host.Outcome State Fault Refusal :=
  .next (commandWord .softReset cmdSoftReset upper s)

/-- POWER_ON_RESET: every block in its power-on state and any transaction abandoned; the pins' levels come from outside
(R184; log 11). -/
def execPowerOnReset (s : State) : Host.Outcome State Fault Refusal :=
  .next { State.reset with tin := s.tin, choices := s.choices, pending := s.pending }

end Sys2Proof.Machine
end

