-- ==== Sys2Proof/Machine/Rings.lean ====
section
/-! DEFINITION. Bracket rings: APPLY and the RING_DATA port (R86 to R91). -/

namespace Sys2Proof.Machine

/-- An accepted APPLY: it commits at once at a head that runs no burst, else it is pending; it clears the withdrawn
indication (R88 to R90). -/
def Head.applyAccepted (hd : Head) : Head :=
  { hd with ring :=
    if hd.state.running then { hd.ring with applyPending := true, withdrawn := false }
    else { hd.ring.commit with withdrawn := false } }

/-- APPLY(head): BAD_HEAD, then BAD_SET, else accepted (R88). -/
def cmdApply (s : State) : Verdict × State :=
  onHead (fun h s =>
    if (s.head h).ring.staged.ok then (.done, s.modHead h Head.applyAccepted)
    else (.badSet, s)) s

/-- APPLY (R88). -/
def execApply (upper : Byte) (s : State) : Host.Outcome State Fault Refusal :=
  .next (commandWord .apply cmdApply upper s)

/-- RING_DATA's address (Table 11.1). -/
def ringDataAddr : Addr := 0x21

/-- A staged write: the code is stored, and a pending APPLY is withdrawn (R87, R91). -/
def HeadRing.stage (r : HeadRing) (pos : Fin 33) (w : Word) : HeadRing :=
  { r with staged := r.staged.put pos w, applyPending := false, withdrawn := r.withdrawn || r.applyPending }

/-- The word position of RING_SEL advances; head and selector stay (R87). -/
def advancePos (s : State) : State :=
  { s with port := { s.port with ringSel := { s.port.ringSel with pos := nextPos s.port.ringSel.pos } } }

/-- A full RING_DATA word written (R87). -/
def ringWrite (w : Word) (s : State) : State :=
  let sel := s.port.ringSel
  advancePos (if sel.live then s
    else s.modHead sel.head fun hd => { hd with ring := hd.ring.stage sel.pos w })

/-- The word that RING_DATA shows: the code at the position; the live length word has the pointer in bits 10:8 and the
APPLY-pending mark in bit 15 beside it (R87, Table 11.1). -/
def State.ringWord (s : State) : Word :=
  let sel := s.port.ringSel
  let r := (s.head sel.head).ring
  if sel.live then
    if sel.pos = 32 then
      BitVec.ofBool r.applyPending ++ 0#4 ++ BitVec.ofNat 3 r.pointer.val ++ 0#4 ++ r.live.length
    else r.live.code sel.pos
  else r.staged.code sel.pos

/-- RING_DATA_WRITE (R87). -/
def execRingDataWrite (w : Word) (s : State) : Host.Outcome State Fault Refusal :=
  .next (afterWrite ringDataAddr (ringWrite w s))

/-- RING_DATA_READ (R87). -/
def execRingDataRead (s : State) : Host.Outcome State Fault Refusal :=
  .next (afterRead ringDataAddr s.ringWord (advancePos s))

end Sys2Proof.Machine
end

