-- ==== Sys2Proof/Machine/Strobes.lean ====
section
/-! DEFINITION. Strobe channels: STROBE_CFG (R108, R110). -/

namespace Sys2Proof.Machine

/-- DARK is set in a head's open group (R39, R108). -/
def Head.darken (hd : Head) : Head :=
  { hd with ctx := { hd.ctx with group := hd.ctx.group.map fun g => { g with dark := true } } }

/-- A channel is disabled: its holder goes on without the lock, DARK; then each waiter, oldest first, starts without the
lock (R108). -/
def disableStrobe (n : ChanIx) (s : State) : State :=
  let c := s.chan n
  let s := s.setChan n { c with enabled := false, holder := none, waiters := [] }
  let s := match c.holder with
    | some h => s.modHead h Head.darken
    | none => s
  c.waiters.foldl (fun s w => startExposure w false s) s

/-- A channel takes the enable and polarity written for it (R108, R110). -/
def setStrobe (n : ChanIx) (enable activeLow : Bool) (s : State) : State :=
  let t := s.setChan n { s.chan n with activeLow := activeLow }
  match (s.chan n).enabled, enable with
  | false, true => t.setChan n { t.chan n with enabled := true }
  | true, false => disableStrobe n t
  | true, true => t
  | false, false => t

/-- A STROBE_CFG write: all eight settings, channel by channel (R108; log 15). -/
def writeStrobeCfg (w : Word) (s : State) : State :=
  allChans.foldl (fun s n => setStrobe n (w.getLsbD n.val) (w.getLsbD (8 + n.val)) s) s

/-- STROBE_CFG's address (Table 11.1). -/
def strobeCfgAddr : Addr := 0x50

/-- STROBE_ENABLE: a STROBE_CFG write that sets one enable and leaves the rest (R108). -/
def execStrobeEnable (n : ChanIx) (s : State) : Host.Outcome State Fault Refusal :=
  .next (afterWrite strobeCfgAddr (setStrobe n true (s.chan n).activeLow s))

/-- STROBE_DISABLE: a STROBE_CFG write that clears one enable and leaves the rest (R108). -/
def execStrobeDisable (n : ChanIx) (s : State) : Host.Outcome State Fault Refusal :=
  .next (afterWrite strobeCfgAddr (setStrobe n false (s.chan n).activeLow s))

/-- STROBE_POLARITY: a STROBE_CFG write that sets one polarity and leaves the rest (R110). -/
def execStrobePolarity (n : ChanIx) (activeLow : Bool) (s : State) : Host.Outcome State Fault Refusal :=
  .next (afterWrite strobeCfgAddr (setStrobe n (s.chan n).enabled activeLow s))

end Sys2Proof.Machine
end

