-- ==== Sys2Proof/Machine/Time.lean ====
section
/-! DEFINITION. The timebase and the interrupt registers: TICK, TB_LOAD, TB_LO, TB_DIV, IRQ_FLAGS, IRQ_EN, IRQ_CFG
(R165 to R171). -/

namespace Sys2Proof.Machine

/-! ## The tick (R165) -/

/-- One tick of a line: the candidate's filter timer (R21). -/
def Line.tick (l : Line) : Line :=
  { l with qualifier := l.qualifier.map fun q =>
    { q with candidate := q.candidate.map fun c => { c with left := c.left - 1 } } }

/-- One tick of a rate generator: its period timer (R28). -/
def RateGen.tick (g : RateGen) : RateGen :=
  { g with run := g.run.map fun k => { k with left := k.left - 1 } }

/-- One tick of a spacing timer: towards its deadline, or of its overdue count (R41). -/
def SpacingTimer.tick : SpacingTimer → SpacingTimer
  | .stopped => .stopped
  | .running n => .running (n - 1)
  | .expired n t => .expired (satInc n) t

/-- One tick of a head's context: the spacing timer, the pending start's latency count, the latch's age count (R40, R41,
R72). -/
def Context.tick (c : Context) : Context :=
  { c with
    spacing := c.spacing.tick
    pendingStart := c.pendingStart.map fun p => { p with latency := satInc p.latency }
    latch := c.latch.map fun l => { l with age := satInc l.age } }

/-- The tick that a paced retry waits for (R105). -/
def Retry.tick : Retry → Retry
  | .none => .none
  | .waiting => .due
  | .due => .due

/-- One tick of a head's timers (R41, R102). -/
def HeadTimers.tick (t : HeadTimers) : HeadTimers :=
  { delay := t.delay.map (· - 1)
    integration := t.integration.map (· - 1)
    widthLimit := t.widthLimit.map (· - 1)
    strobeWait := t.strobeWait.map (· - 1)
    exposure := t.exposure.map (· + 1)
    retry := t.retry.tick }

/-- One tick of a head. -/
def Head.tick (hd : Head) : Head := { hd with ctx := hd.ctx.tick, timers := hd.timers.tick }

/-- One tick of the digitizer port: the readout timer (R125). -/
def Port.tick : Port → Port
  | .idle => .idle
  | .busy h tag n => .busy h tag (n - 1)

/-- The end of a tick: the counter is incremented, the next tick begins under the divider code that now stands, and every
running interval timer counts (R165, R166). -/
def tickEnd (s : State) : State :=
  { s with
    tb := { s.tb with counter := s.tb.counter + 1, tickCode := s.tb.divCode, refclks := 0, fresh := true }
    lines := mapAll Line.tick s.lines
    rates := mapAll RateGen.tick s.rates
    heads := mapAll Head.tick s.heads
    arb := { s.arb with port := s.arb.port.tick } }

/-- TICK: the end of the tick in progress (R165; log 16). -/
def execTick (s : State) : Host.Outcome State Fault Refusal := .next (tickEnd s)

/-- One period of REFCLK: it counts towards the tick in progress, which ends when it has as many as the divider that
governs it (R165; log 1). -/
def refclk (s : State) : State :=
  if s.tb.refclks + 1 < s.tb.tickCode.toNat + 1 then
    { s with tb := { s.tb with refclks := s.tb.refclks + 1, fresh := false } }
  else tickEnd s

/-! ## Timebase registers (R166 to R168) -/

/-- TB_LOAD: the counter becomes ARG1:ARG0; no timer moves, the tick in progress goes on (R167). -/
def cmdTbLoad (s : State) : Verdict × State :=
  (.done, { s with tb := { s.tb with counter := s.port.arg1 ++ s.port.arg0 } })

/-- TB_LOAD (R167). -/
def execTbLoad (upper : Byte) (s : State) : Host.Outcome State Fault Refusal :=
  .next (commandWord .tbLoad cmdTbLoad upper s)

/-- TB_LO's address (Table 11.1). -/
def tbLoAddr : Addr := 0x68

/-- The high half is captured (R168). -/
def captureHigh (s : State) : State := { s with tb := { s.tb with captured := hiHalf s.tb.counter } }

/-- TB_LO_READ (R168). -/
def execTbLoRead (s : State) : Host.Outcome State Fault Refusal :=
  .next (afterRead tbLoAddr (loHalf s.tb.counter) (captureHigh s))

/-- A TB_DIV write: the lower eight bits become the code, which governs from the next tick. A write that comes together
with the end of a tick, the tick ending first, governs the tick that has just begun; whether a write that finds no REFCLK
period counted since a tick's end came together with it is a free choice. The code already held changes nothing (R166;
log 23). -/
def writeDivider (w : Word) (s : State) : State :=
  let code := w.extractLsb' 0 8
  if s.tb.fresh && code != s.tb.divCode then
    let together := Config.writeAtTickEnd s.choices
    { s with
      tb := { s.tb with
        divCode := code, tickCode := if together then code else s.tb.tickCode, fresh := together }
      choices := s.choices + 1 }
  else { s with tb := { s.tb with divCode := code } }

/-- TB_DIV's address (Table 11.1). -/
def tbDivAddr : Addr := 0x6A

/-- TB_DIV_WRITE (R166). -/
def execTbDivWrite (w : Word) (s : State) : Host.Outcome State Fault Refusal :=
  .next (afterWrite tbDivAddr (writeDivider w s))

/-! ## Interrupt registers (R170, R171) -/

/-- An IRQ_FLAGS write (R170). -/
def writeIrqFlags (w : Word) (s : State) : State := { s with irq := s.irq.clearBy w }

/-- An IRQ_EN write: each cause's enable (R171). -/
def writeIrqEn (w : Word) (s : State) : State := { s with irq := { s.irq with enables := w &&& causeMask } }

/-- An IRQ_CFG write (R171). -/
def writeIrqCfg (activeHigh : Bool) (s : State) : State :=
  { s with irq := { s.irq with activeHigh := activeHigh } }

/-- IRQ_FLAGS_CLEAR (R170). -/
def execIrqFlagsClear (w : Word) (s : State) : Host.Outcome State Fault Refusal :=
  .next (afterWrite 0x70 (writeIrqFlags w s))

/-- IRQ_EN_WRITE (R171). -/
def execIrqEnWrite (w : Word) (s : State) : Host.Outcome State Fault Refusal :=
  .next (afterWrite 0x71 (writeIrqEn w s))

/-- IRQ_POLARITY (R171). -/
def execIrqPolarity (activeHigh : Bool) (s : State) : Host.Outcome State Fault Refusal :=
  .next (afterWrite 0x72 (writeIrqCfg activeHigh s))

end Sys2Proof.Machine
end

