-- ==== Sys2Proof/Machine/Triggers.lean ====
section
/-! DEFINITION. The trigger matrix: lines and their qualifiers, rate generators, the soft trigger (R19 to R31). -/

namespace Sys2Proof.Machine

/-! ## Lines (R20 to R24) -/

/-- A level is qualified: the qualified level becomes it, the candidate ends, and the line produces an assert or a
release stamped with the timebase value (R21, step 3). -/
def qualifyLine (n : LineIx) (high : Bool) (s : State) : State :=
  let l := s.line n
  let t := s.setLine n { l with qualifier := some { high := high, candidate := none } }
  if l.isActive high then deliverAssert (.line n) s.now allHeads t else deliverRelease n t

/-- The line's pin is sampled at a level: a departure begins a candidate edge, or is qualified at once under Filter 0; a
return ends the candidate (R21). -/
def sampleLine (n : LineIx) (high : Bool) (s : State) : State :=
  if s.pin n = high then s
  else
    let l := s.line n
    let s := { s with tin := s.tin.set n.val high n.isLt }
    match l.qualifier with
    | none => s
    | some q =>
      if high = q.high then s.setLine n { l with qualifier := some { q with candidate := none } }
      else if l.filter = 0 then qualifyLine n high s
      else s.setLine n { l with qualifier := some { q with candidate := some { high := high, left := l.filter.toNat } } }

/-- The filter timer of a line runs out: the candidate is qualified (R21); with none due nothing happens (log 2). -/
def expireFilter (n : LineIx) (s : State) : State :=
  match (s.line n).qualifier with
  | some q =>
    match q.candidate with
    | some c => if c.left = 0 then qualifyLine n c.high s else s
    | none => s
  | none => s

/-- The release that a line standing active delivers when it is disabled or its active level changes (R23, R24). -/
def releaseIfActive (n : LineIx) (l : Line) (s : State) : State :=
  match l.qualifier with
  | some q => if l.isActive q.high then deliverRelease n s else s
  | none => s

/-- A LINE_CFG write (R22 to R24, Table 2.2). -/
def writeLineCfg (n : LineIx) (enable activeLow : Bool) (filter : Byte) (s : State) : State :=
  let l := s.line n
  let fresh : Option Qualifier := some { high := s.pin n, candidate := none }
  match l.qualifier, enable with
  | none, false => s.setLine n { activeLow := activeLow, filter := filter, qualifier := none }
  | none, true => s.setLine n { activeLow := activeLow, filter := filter, qualifier := fresh }
  | some _, false =>
    releaseIfActive n l (s.setLine n { activeLow := activeLow, filter := filter, qualifier := none })
  | some q, true =>
    if activeLow = l.activeLow then s.setLine n { activeLow := activeLow, filter := filter, qualifier := some q }
    else releaseIfActive n l (s.setLine n { activeLow := activeLow, filter := filter, qualifier := fresh })

/-- LINE_CFGn's address (Table 11.1). -/
def lineCfgAddr (n : LineIx) : Addr := 0x38#7 + BitVec.ofNat 7 n.val

/-- LINE_ENABLE: a LINE_CFG write with the enable set (R22). -/
def execLineEnable (n : LineIx) (activeLow : Bool) (filter : Byte) (s : State) : Host.Outcome State Fault Refusal :=
  .next (afterWrite (lineCfgAddr n) (writeLineCfg n true activeLow filter s))

/-- LINE_DISABLE: a LINE_CFG write with the enable clear (R23). -/
def execLineDisable (n : LineIx) (activeLow : Bool) (filter : Byte) (s : State) : Host.Outcome State Fault Refusal :=
  .next (afterWrite (lineCfgAddr n) (writeLineCfg n false activeLow filter s))

/-- LINE_RECONFIGURE: a LINE_CFG write that leaves the enable as it was (R24). -/
def execLineReconfigure (n : LineIx) (activeLow : Bool) (filter : Byte) (s : State) :
    Host.Outcome State Fault Refusal :=
  .next (afterWrite (lineCfgAddr n) (writeLineCfg n (s.line n).enabled activeLow filter s))

/-- LINE_LEVEL_CHANGE (R21). -/
def execLineLevelChange (n : LineIx) (high : Bool) (s : State) : Host.Outcome State Fault Refusal :=
  .next (sampleLine n high s)

/-- FILTER_EXPIRY (R21). -/
def execFilterExpiry (n : LineIx) (s : State) : Host.Outcome State Fault Refusal :=
  .next (expireFilter n s)

/-! ## Rate generators (R27 to R30) -/

/-- A RATEn_CTL write: enabling starts a fresh period with count 0, disabling stops, an unchanged enable stores the code
alone (R29, R30). -/
def writeRateCtl (g : RateIx) (enable : Bool) (code : Byte) (s : State) : State :=
  let r := s.rate g
  s.setRate g { r with
    decimation := code
    run := if enable then some (r.run.getD { left := r.ticks, count := 0 }) else none }

/-- A RATEn_P_LO write stores the register and leaves the written period (R30). -/
def writeRateLo (g : RateIx) (w : Word) (s : State) : State :=
  s.setRate g { s.rate g with periodLo := w }

/-- A RATEn_P_HI write makes the two registers' 24 bits the written period; a running period keeps its length (R30). -/
def writeRateHi (g : RateIx) (hi : Byte) (s : State) : State :=
  let r := s.rate g
  s.setRate g { r with periodHi := hi, period := hi ++ r.periodLo }

/-- A period expiry: the generator counts or emits its assert, and a new period begins (R28); with none due nothing
happens (log 2). -/
def expirePeriod (g : RateIx) (s : State) : State :=
  let r := s.rate g
  match r.run with
  | some k =>
    if k.left = 0 then
      if k.count.toNat + 1 < r.decimation.toNat + 1 then
        s.setRate g { r with run := some { left := r.ticks, count := k.count + 1 } }
      else
        deliverAssert (.rate g) s.now allHeads (s.setRate g { r with run := some { left := r.ticks, count := 0 } })
    else s
  | none => s

/-- RATEn_P_LO's address; P_HI and CTL follow it (Table 11.1). -/
def rateLoAddr (g : RateIx) : Addr := 0x44#7 + 4#7 * BitVec.ofNat 7 g.val

/-- RATE_ENABLE: a RATEn_CTL write with the enable set (R29). -/
def execRateEnable (g : RateIx) (code : Byte) (s : State) : Host.Outcome State Fault Refusal :=
  .next (afterWrite (rateLoAddr g + 2) (writeRateCtl g true code s))

/-- RATE_DISABLE: a RATEn_CTL write with the enable clear (R29). -/
def execRateDisable (g : RateIx) (code : Byte) (s : State) : Host.Outcome State Fault Refusal :=
  .next (afterWrite (rateLoAddr g + 2) (writeRateCtl g false code s))

/-- RATE_DECIMATION: a RATEn_CTL write that leaves the enable as it was (R30). -/
def execRateDecimation (g : RateIx) (code : Byte) (s : State) : Host.Outcome State Fault Refusal :=
  .next (afterWrite (rateLoAddr g + 2) (writeRateCtl g (s.rate g).run.isSome code s))

/-- RATE_PERIOD_WRITE: a RATEn_P_HI write (R30). -/
def execRatePeriodWrite (g : RateIx) (hi : Byte) (s : State) : Host.Outcome State Fault Refusal :=
  .next (afterWrite (rateLoAddr g + 1) (writeRateHi g hi s))

/-- RATE_PERIOD_EXPIRY (R28). -/
def execRatePeriodExpiry (g : RateIx) (s : State) : Host.Outcome State Fault Refusal :=
  .next (expirePeriod g s)

/-! ## Soft trigger (R31) -/

/-- SOFT_TRIGGER: an assert from SOFT, stamped now, to each masked head; always DONE (R31). -/
def cmdSoftTrigger (s : State) : Verdict × State :=
  (.done, deliverAssert .soft s.now (maskHeads s.port.arg0) s)

/-- SOFT_TRIGGER (R31). -/
def execSoftTrigger (upper : Byte) (s : State) : Host.Outcome State Fault Refusal :=
  .next (commandWord .softTrigger cmdSoftTrigger upper s)

end Sys2Proof.Machine
end

