-- ==== Sys2Proof/Machine/Window.lean ====
section
/-! DEFINITION. The register window: what a word written to each address does, what each address reads, and the rows of
the host port itself (R173 to R178, Table 11.1). -/

namespace Sys2Proof.Machine

/-! ## CMD (R178) -/

/-- What a command of Table 11.4 does. -/
def actOf : CmdName → State → Verdict × State
  | .start => cmdStart
  | .stop => cmdStop
  | .abort => cmdAbort
  | .clear => cmdClear
  | .headReset => cmdHeadReset
  | .softTrigger => cmdSoftTrigger
  | .apply => cmdApply
  | .mark => cmdMark
  | .discard => cmdDiscard
  | .programWrite => cmdProgramWrite
  | .programRead => cmdProgramRead
  | .programClear => cmdProgramClear
  | .tbLoad => cmdTbLoad
  | .softReset => cmdSoftReset

/-- What a CMD word does: its listed command, or a refusal with BAD_ARG that acts on no block (R178). -/
def actOfCode (code : Byte) (s : State) : Verdict × State :=
  match cmdOfCode code with
  | some c => actOf c s
  | none => (.badArg, s)

/-- A word written to CMD is taken (R178). -/
def takeWord (w : Word) (s : State) : State :=
  takeWith (actOfCode (w.extractLsb' 0 8)) (w.extractLsb' 8 8) (w.extractLsb' 0 8) s

/-! ## Writes (R176, R177) -/

/-- The state with descriptor word n replaced (R2). -/
def writeBuffer (n : Fin 16) (w : Word) (s : State) : State :=
  { s with buffer := s.buffer.set n.val w n.isLt }

/-- A LINE_CFG word (Table 11.1). -/
def writeLineWord (n : LineIx) (w : Word) (s : State) : State :=
  writeLineCfg n (w.getLsbD 15) (w.getLsbD 8) (w.extractLsb' 0 8) s

/-- A word of a rate generator's three registers; the fourth address of a group is not listed (Table 11.1). -/
def writeRateWord (g : RateIx) (k : Nat) (w : Word) (s : State) : State :=
  match k with
  | 0 => writeRateLo g w s
  | 1 => writeRateHi g (w.extractLsb' 0 8) s
  | 2 => writeRateCtl g (w.getLsbD 15) (w.extractLsb' 0 8) s
  | _ => s

/-- A word written in full to the register at `a`: what the register does with it. An address that Table 11.1 does not
list and a read-only register ignore it (R176, R177). -/
def writeRegister (a : Addr) (w : Word) (s : State) : State :=
  let n := a.toNat
  if n = 0x00 then { s with port := { s.port with arg0 := w } }
  else if n = 0x01 then { s with port := { s.port with arg1 := w } }
  else if n = 0x02 then takeWord w s
  else if 0x10 ≤ n ∧ n ≤ 0x1F then writeBuffer (Fin.ofNat 16 (n - 0x10)) w s
  else if n = 0x20 then { s with port := { s.port with ringSel := RingSel.ofWord w } }
  else if n = 0x21 then ringWrite w s
  else if 0x2C ≤ n ∧ n ≤ 0x2F then clearDrops (Fin.ofNat 4 (n - 0x2C)) s
  else if n = 0x34 then writeHeadEn w s
  else if 0x38 ≤ n ∧ n ≤ 0x3F then writeLineWord (Fin.ofNat 8 (n - 0x38)) w s
  else if 0x44 ≤ n ∧ n ≤ 0x46 then writeRateWord 0 (n - 0x44) w s
  else if 0x48 ≤ n ∧ n ≤ 0x4A then writeRateWord 1 (n - 0x48) w s
  else if n = 0x50 then writeStrobeCfg w s
  else if n = 0x58 then writeLinkCfg (w.getLsbD 0) s
  else if n = 0x5A then clearLinkCounts s
  else if n = 0x64 then writeThreshold w s
  else if n = 0x6A then writeDivider w s
  else if n = 0x70 then writeIrqFlags w s
  else if n = 0x71 then writeIrqEn w s
  else if n = 0x72 then writeIrqCfg (w.getLsbD 0) s
  else s

/-! ## Reads (R176, R177) -/

/-- What a word read at `a` shows (Table 11.1); an address not listed reads zero (R176). -/
def regRead (s : State) (a : Addr) : Word :=
  let n := a.toNat
  if n = 0x00 then s.port.arg0
  else if n = 0x01 then s.port.arg1
  else if n = 0x02 then s.port.cmd
  else if n = 0x03 then s.port.result
  else if 0x10 ≤ n ∧ n ≤ 0x1F then s.buffer[(Fin.ofNat 16 (n - 0x10)).val]'(Fin.ofNat 16 (n - 0x10)).isLt
  else if n = 0x20 then s.port.ringSel.word
  else if n = 0x21 then s.ringWord
  else if 0x28 ≤ n ∧ n ≤ 0x2B then (s.head (Fin.ofNat 4 (n - 0x28))).statWord
  else if 0x2C ≤ n ∧ n ≤ 0x2F then (s.head (Fin.ofNat 4 (n - 0x2C))).drops
  else if 0x30 ≤ n ∧ n ≤ 0x33 then (s.head (Fin.ofNat 4 (n - 0x30))).lost
  else if n = 0x34 then markWord 16 allHeads fun h => (s.head h).enabled
  else if 0x38 ≤ n ∧ n ≤ 0x3F then (s.line (Fin.ofNat 8 (n - 0x38))).cfgWord
  else if n = 0x40 then
    markWord 8 allLines (fun l => (s.line l).pendingMark) ++ markWord 8 allLines (fun l => (s.line l).activeMark)
  else if n = 0x44 then (s.rate 0).periodLo
  else if n = 0x45 then (s.rate 0).periodHi.zeroExtend 16
  else if n = 0x46 then (s.rate 0).ctlWord
  else if n = 0x48 then (s.rate 1).periodLo
  else if n = 0x49 then (s.rate 1).periodHi.zeroExtend 16
  else if n = 0x4A then (s.rate 1).ctlWord
  else if n = 0x50 then
    markWord 8 allChans (fun c => (s.chan c).activeLow) ++ markWord 8 allChans (fun c => (s.chan c).enabled)
  else if n = 0x51 then (s.chan 3).statBits ++ (s.chan 2).statBits ++ (s.chan 1).statBits ++ (s.chan 0).statBits
  else if n = 0x58 then 0#15 ++ BitVec.ofBool s.arb.linkEnable
  else if n = 0x59 then s.arb.statWord
  else if n = 0x5A then s.arb.stray ++ s.arb.linkErrors
  else if n = 0x60 then s.queue.word
  else if n = 0x61 then BitVec.ofNat 16 s.queue.occupancy
  else if n = 0x62 then BitVec.ofNat 16 s.queue.records.length
  else if n = 0x63 then BitVec.ofNat 16 s.queue.remain
  else if n = 0x64 then BitVec.ofNat 16 s.queue.threshold
  else if n = 0x68 then loHalf s.tb.counter
  else if n = 0x69 then s.tb.captured
  else if n = 0x6A then s.tb.divCode.zeroExtend 16
  else if n = 0x70 then s.causes
  else if n = 0x71 then s.irq.enables
  else if n = 0x72 then 0#15 ++ BitVec.ofBool s.irq.activeHigh
  else 0

/-- What a full word read does to the register at `a`: TB_LO captures the high half, a RING_DATA word advances the word
position, a Q_PORT word leaves the queue; no other read changes anything (R87, R144, R168, R175). -/
def readEffect (a : Addr) (s : State) : State :=
  if a = tbLoAddr then captureHigh s
  else if a = ringDataAddr then advancePos s
  else if a = qPortAddr then takeQueueWord s
  else s

/-! ## The rows of the host port -/

/-- ADDRESS_BYTE: SEL goes active and the address byte opens a transaction (R173; log 5). -/
def execAddressByte (byte : Byte) (s : State) : Host.Outcome State Fault Refusal :=
  .next { s with port := { s.port with
    transaction := some { read := byte.getLsbD 7, addr := byte.extractLsb' 0 7 }, sdo := none } }

/-- Whether a deselect that cuts off a word cuts off a read of TB_LO, whose capture stands (R168, R175). -/
def cutsTbLo (s : State) (cut : Bool) : Bool := cut && decide (s.port.transaction = some ⟨true, tbLoAddr⟩)

/-- DESELECT: the transaction ends; a word cut off has no effect on its register, but a TB_LO word's capture at its start
stands (R173, R175). -/
def execDeselect (cut : Bool) (s : State) : Host.Outcome State Fault Refusal :=
  let t := if cutsTbLo s cut then captureHigh s else s
  .next { t with port := { t.port with transaction := none, sdo := none } }

/-- A full data word of the open transaction: written, it is delivered to the register at the current address; read, that
register's word is shifted out; then the address advances (R173 to R176; log 6, 15). -/
def transferWord (t : Transaction) (w : Word) (s : State) : State :=
  if t.read then afterRead t.addr (regRead s t.addr) (readEffect t.addr s)
  else afterWrite t.addr (writeRegister t.addr w s)

/-- REGISTER_WRITE: a full data word of the open transaction; with none open no word is transferred (R173, R174, R176;
log 6, 15). -/
def execRegisterWrite (w : Word) (s : State) : Host.Outcome State Fault Refusal :=
  match s.port.transaction with
  | some t => .next (transferWord t w s)
  | none => .next s

/-- UNLISTED_COMMAND: a CMD word is taken; an unlisted code is refused with BAD_ARG and acts on no block (R178). -/
def execUnlistedCommand (w : Word) (s : State) : Host.Outcome State Fault Refusal :=
  .next (afterWrite cmdAddr (takeWord w s))

end Sys2Proof.Machine
end

