-- ==== Sys2Proof/Machine/Dispatch.lean ====
section
/-! DEFINITION. One arm per command: each calls its own meaning. -/

namespace Sys2Proof.Machine

/-- The effect of a command on everything but the queue of waiting commands. -/
def exec (i : Instr) (s : State) : Host.Outcome State Fault Refusal :=
  match i with
  | .powerOnReset => Sys2Proof.Machine.execPowerOnReset s
  | .addressByte byte => Sys2Proof.Machine.execAddressByte byte s
  | .deselect cut => Sys2Proof.Machine.execDeselect cut s
  | .registerWrite value => Sys2Proof.Machine.execRegisterWrite value s
  | .start upper => Sys2Proof.Machine.execStart upper s
  | .stop upper => Sys2Proof.Machine.execStop upper s
  | .abort upper => Sys2Proof.Machine.execAbort upper s
  | .clear upper => Sys2Proof.Machine.execClear upper s
  | .headReset upper => Sys2Proof.Machine.execHeadReset upper s
  | .softTrigger upper => Sys2Proof.Machine.execSoftTrigger upper s
  | .apply upper => Sys2Proof.Machine.execApply upper s
  | .mark upper => Sys2Proof.Machine.execMark upper s
  | .discard upper => Sys2Proof.Machine.execDiscard upper s
  | .programWrite upper => Sys2Proof.Machine.execProgramWrite upper s
  | .programRead upper => Sys2Proof.Machine.execProgramRead upper s
  | .programClear upper => Sys2Proof.Machine.execProgramClear upper s
  | .tbLoad upper => Sys2Proof.Machine.execTbLoad upper s
  | .softReset upper => Sys2Proof.Machine.execSoftReset upper s
  | .unlistedCommand word => Sys2Proof.Machine.execUnlistedCommand word s
  | .ringDataWrite value => Sys2Proof.Machine.execRingDataWrite value s
  | .ringDataRead => Sys2Proof.Machine.execRingDataRead s
  | .headDropClear head => Sys2Proof.Machine.execHeadDropClear head s
  | .headEnable head => Sys2Proof.Machine.execHeadEnable head s
  | .headDisable head => Sys2Proof.Machine.execHeadDisable head s
  | .lineEnable line activeLow filter => Sys2Proof.Machine.execLineEnable line activeLow filter s
  | .lineDisable line activeLow filter => Sys2Proof.Machine.execLineDisable line activeLow filter s
  | .lineReconfigure line activeLow filter => Sys2Proof.Machine.execLineReconfigure line activeLow filter s
  | .lineLevelChange line high => Sys2Proof.Machine.execLineLevelChange line high s
  | .filterExpiry line => Sys2Proof.Machine.execFilterExpiry line s
  | .rateEnable gen code => Sys2Proof.Machine.execRateEnable gen code s
  | .rateDisable gen code => Sys2Proof.Machine.execRateDisable gen code s
  | .rateDecimation gen code => Sys2Proof.Machine.execRateDecimation gen code s
  | .ratePeriodWrite gen hi => Sys2Proof.Machine.execRatePeriodWrite gen hi s
  | .ratePeriodExpiry gen => Sys2Proof.Machine.execRatePeriodExpiry gen s
  | .delayExpiry head => Sys2Proof.Machine.execDelayExpiry head s
  | .integrationExpiry head => Sys2Proof.Machine.execIntegrationExpiry head s
  | .widthLimitExpiry head => Sys2Proof.Machine.execWidthLimitExpiry head s
  | .spacingExpiry head => Sys2Proof.Machine.execSpacingExpiry head s
  | .strobeWaitExpiry head => Sys2Proof.Machine.execStrobeWaitExpiry head s
  | .overdueTickAttempt head => Sys2Proof.Machine.execOverdueTickAttempt head s
  | .strobeEnable chan => Sys2Proof.Machine.execStrobeEnable chan s
  | .strobeDisable chan => Sys2Proof.Machine.execStrobeDisable chan s
  | .strobePolarity chan activeLow => Sys2Proof.Machine.execStrobePolarity chan activeLow s
  | .linkEnable => Sys2Proof.Machine.execLinkEnable s
  | .linkDisable => Sys2Proof.Machine.execLinkDisable s
  | .grant => Sys2Proof.Machine.execGrant s
  | .frameSent => Sys2Proof.Machine.execFrameSent s
  | .complete tag status level => Sys2Proof.Machine.execComplete tag status level s
  | .linkError frame => Sys2Proof.Machine.execLinkError frame s
  | .shortFrame => Sys2Proof.Machine.execShortFrame s
  | .readoutTimeout => Sys2Proof.Machine.execReadoutTimeout s
  | .linkCntClear => Sys2Proof.Machine.execLinkCntClear s
  | .queueRead => Sys2Proof.Machine.execQueueRead s
  | .qThreshWrite value => Sys2Proof.Machine.execQThreshWrite value s
  | .tbLoRead => Sys2Proof.Machine.execTbLoRead s
  | .tbDivWrite value => Sys2Proof.Machine.execTbDivWrite value s
  | .tick => Sys2Proof.Machine.execTick s
  | .irqFlagsClear value => Sys2Proof.Machine.execIrqFlagsClear value s
  | .byteTimeIdle => Sys2Proof.Machine.execByteTimeIdle s
  | .irqEnWrite value => Sys2Proof.Machine.execIrqEnWrite value s
  | .irqPolarity activeHigh => Sys2Proof.Machine.execIrqPolarity activeHigh s

end Sys2Proof.Machine
end

