-- ==== Sys2Proof/Machine/Autonomy.lean ====
section
/-! DEFINITION. What the part does by itself while no command waits: its own events that are due, and else the passing of
a REFCLK period (log 1). -/

namespace Sys2Proof.Machine

/-- The events of head h that are due: R45, R54, R55, R59, R105. -/
def Head.dueEvents (h : HeadIx) (hd : Head) : List Instr :=
  (if hd.delayDue then [Instr.delayExpiry h] else [])
    ++ (if hd.integrationDue then [Instr.integrationExpiry h] else [])
    ++ (if hd.widthLimitDue then [Instr.widthLimitExpiry h] else [])
    ++ (if hd.spacingDue then [Instr.spacingExpiry h] else [])
    ++ (if hd.strobeWaitDue then [Instr.strobeWaitExpiry h] else [])
    ++ (if hd.retryDue then [Instr.overdueTickAttempt h] else [])

/-- Whether a line's filter timer is due (R21). -/
def Line.filterDue (l : Line) : Bool :=
  match l.qualifier with
  | some q =>
    match q.candidate with
    | some c => decide (c.left = 0)
    | none => false
  | none => false

/-- Whether a generator's period timer is due (R28). -/
def RateGen.periodDue (g : RateGen) : Bool :=
  match g.run with
  | some k => decide (k.left = 0)
  | none => false

/-- Whether the readout timer is due (R125). -/
def Port.timeoutDue : Port → Bool
  | .busy _ _ n => decide (n = 0)
  | .idle => false

/-- The part's own events that are due. -/
def State.dueEvents (s : State) : List Instr :=
  allHeads.flatMap (fun h => (s.head h).dueEvents h)
    ++ (allLines.filter fun n => (s.line n).filterDue).map Instr.filterExpiry
    ++ (allRates.filter fun g => (s.rate g).periodDue).map Instr.ratePeriodExpiry
    ++ (if s.arb.port.timeoutDue then [Instr.readoutTimeout] else [])
    ++ (if s.grantDue then [Instr.grant] else [])

/-- The part by itself: one due event, any one where several are due; with none due, one REFCLK period (log 1). -/
def idle (s : State) : Host.Outcome State Fault Refusal :=
  match s.dueEvents with
  | [] => .next (refclk s)
  | [c] => exec c s
  | c :: cs =>
    exec ((c :: cs).getD (Config.dueChoice s.choices % (cs.length + 1)) c) { s with choices := s.choices + 1 }

end Sys2Proof.Machine
end

