-- ==== Sys2Proof/Safety.lean ====
section
/-! DEFINITION. What holds of every state the part comes to: the laws that the spec states of its blocks, as decidable
propositions over one state. Each is a premise and a conclusion of the statements about a step, so that none rests on
reachability. -/

namespace Sys2Proof.Machine

/-! ## Record queue (R130, R148) -/

/-- The canonical form of the record queue: the read position lies inside the oldest record, and is 0 in an empty queue;
the occupancy is at most 512 words; the threshold is 1 to 512. A record's length, 2 to 14 words, follows from its form. -/
abbrev RecordQueue.WF (q : RecordQueue) : Prop :=
  q.readPos < (match q.records with
    | [] => 1
    | r :: _ => r.len)
  ∧ q.occupancy ≤ Config.queueWords ∧ 1 ≤ q.threshold ∧ q.threshold ≤ Config.queueWords

/-! ## Trigger lines (R20, R21) -/

/-- An enabled line without a candidate edge has its pin's level as its qualified level; a candidate edge records the
pin's level, and that is the other level (R21). -/
abbrev Line.Law (pin : Bool) (l : Line) : Prop :=
  ∀ q ∈ l.qualifier,
    (q.candidate = none → q.high = pin) ∧ ∀ c ∈ q.candidate, c.high = pin ∧ c.high ≠ q.high

/-- Every line keeps its law. -/
abbrev State.LineLaw (s : State) : Prop := ∀ n : LineIx, (s.line n).Law (s.pin n)

/-! ## Timebase and interrupt unit (R165, R169, R171) -/

/-- The tick in progress is shorter than the divider that governs it, and empty where a tick has just ended; flags and
enables stand at the places of causes only. -/
abbrev State.ClockLaw (s : State) : Prop :=
  s.tb.refclks ≤ s.tb.tickCode.toNat ∧ (s.tb.fresh = true → s.tb.refclks = 0) ∧ s.irq.flags &&& ~~~stickyMask = 0 ∧ s.irq.enables &&& ~~~causeMask = 0

/-! ## Heads and their enables (R35, R36, R42) -/

/-- A head is enabled exactly when it is not in OFF; a head in OFF, IDLE or FAULT has an EMPTY slot; a head in BLOCKED or
EXTENDING has a full one (R36, R42, R71, R79). -/
abbrev Head.StateLaw (hd : Head) : Prop :=
  (hd.enabled = true ↔ hd.state ≠ .off)
  ∧ (hd.state = .off ∨ hd.state = .idle ∨ hd.state = .fault → hd.slot = .empty)
  ∧ (hd.state = .blocked ∨ hd.state = .extending → hd.slot ≠ .empty)

/-- Every head keeps its state law. -/
abbrev State.HeadStateLaw (s : State) : Prop := ∀ h : HeadIx, (s.head h).StateLaw

/-! ## Bracket rings (R85, R91, R93, R119) -/

/-- A group record has a set that APPLY accepted. -/
abbrev GroupRecord.SetOk (g : GroupRecord) : Prop := g.integration ≠ 0 ∧ g.gain.toNat ≤ 1023

/-- The live ring is one that APPLY accepted, the pointer is below its length, and a pending APPLY's staged ring is one
that APPLY accepted (R85, R91). -/
abbrev HeadRing.Law (r : HeadRing) : Prop :=
  r.live.ok = true ∧ r.pointer.val < r.live.length.toNat ∧ (r.applyPending = true → r.staged.ok = true)

/-- The ring law, a pending APPLY only at a running head, and accepted sets in the open group and in the slot (R85, R93,
R119). -/
abbrev Head.RingLaw (hd : Head) : Prop :=
  hd.ring.Law ∧ (hd.ring.applyPending = true → hd.state.running = true)
  ∧ (∀ g ∈ hd.ctx.group, g.SetOk) ∧ ∀ c ∈ hd.slot.group?, c.record.SetOk

/-- Every head keeps the ring law. -/
abbrev State.RingLaw (s : State) : Prop := ∀ h : HeadIx, (s.head h).RingLaw

/-! ## Readout arbiter (R113, R115) -/

/-- Whether a slot is QUEUED. -/
def Slot.isQueued : Slot → Bool
  | .queued _ => true
  | .empty | .active _ => false

/-- Whether a slot is ACTIVE. -/
def Slot.isActive : Slot → Bool
  | .active _ => true
  | .empty | .queued _ => false

/-- Whether a slot is QUEUED with a group of the class URGENT (R113). -/
def Slot.isUrgent : Slot → Bool
  | .queued g => decide (g.priority = .urgent)
  | .empty | .active _ => false

/-- The active head of a port. -/
def Port.head? : Port → Option HeadIx
  | .busy h _ _ => some h
  | .idle => none

/-- One request per QUEUED slot and no other, every URGENT one ahead of every NORMAL one; the port is BUSY with the one
head whose slot is ACTIVE (R113, R115). -/
abbrev State.ArbiterLaw (s : State) : Prop :=
  s.arb.queue.Nodup
  ∧ (∀ h : HeadIx, h ∈ s.arb.queue ↔ (s.head h).slot.isQueued = true)
  ∧ s.arb.queue.Pairwise (fun a b => (s.head b).slot.isUrgent = true → (s.head a).slot.isUrgent = true)
  ∧ ∀ h : HeadIx, s.arb.port.head? = some h ↔ (s.head h).slot.isActive = true

/-! ## Strobe channels (R97, R98, R101) -/

/-- A channel without a holder has no waiter, a disabled one no holder; a holder exposes or extends under a program that
names the channel; the waiters are distinct heads in STROBE_WAIT whose programs name it (R97, R98, R101). -/
abbrev State.ChannelLaw (s : State) (n : ChanIx) : Prop :=
  let c := s.chan n
  (c.enabled = false → c.holder = none) ∧ (c.holder = none → c.waiters = [])
  ∧ (∀ h ∈ c.holder, (s.head h).state.exposes = true ∧ (s.head h).ctx.prog.channel = some n)
  ∧ c.waiters.Nodup
  ∧ ∀ w ∈ c.waiters, (s.head w).state = .strobeWait ∧ (s.head w).ctx.prog.channel = some n

/-- Every channel keeps its law; a head in STROBE_WAIT stands in the list of the channel its program names; a pending start
is present exactly in DELAY and STROBE_WAIT (R40, R98, R101). -/
abbrev State.StrobeLaw (s : State) : Prop :=
  (∀ n : ChanIx, s.ChannelLaw n)
  ∧ (∀ h : HeadIx, (s.head h).state = .strobeWait →
      ∃ n : ChanIx, (s.head h).ctx.prog.channel = some n ∧ h ∈ (s.chan n).waiters)
  ∧ ∀ h : HeadIx, ((s.head h).ctx.pendingStart.isSome = true
      ↔ (s.head h).state = .delay ∨ (s.head h).state = .strobeWait)

/-! ## Head context (R17, R37 to R41, R66, R70 to R73, R78, R102) -/

/-- The counters of a running head: its program is an accepted one, exposures done is below Accumulate, and groups done is
below a nonzero Burst (R17, R38). -/
abbrev Head.CountLaw (hd : Head) : Prop :=
  hd.state.running = true →
    validate ⟨true, hd.ctx.prog⟩ = none
    ∧ hd.ctx.exposuresDone.toNat < hd.ctx.prog.accumulate.toNat
    ∧ (hd.ctx.prog.burst ≠ 0 → hd.ctx.groupsDone.toNat < hd.ctx.prog.burst.toNat)

/-- The open group: open in EXPOSING and EXTENDING, open only at a running head outside BLOCKED, with exposures done 0
when none is open; EXTENDING holds the last exposure of a STRETCHED group; stop-pending only with a group open (R38, R39, R71,
R79, R154). -/
abbrev Head.GroupLaw (hd : Head) : Prop :=
  (hd.state.exposes = true → hd.ctx.group.isSome = true)
  ∧ (hd.ctx.group.isSome = true → hd.state.running = true ∧ hd.state ≠ .blocked)
  ∧ (hd.ctx.group = none → hd.ctx.exposuresDone = 0)
  ∧ (hd.state = .extending → hd.ctx.lastExposure = true ∧ ∀ g ∈ hd.ctx.group, g.stretched = true)
  ∧ (hd.ctx.stopPending = true → hd.ctx.group.isSome = true)

/-- STRICT and OVERLAP: a STRICT head that runs outside BLOCKED has an EMPTY slot, and only a STRICT head is BLOCKED (R70,
R78). -/
abbrev Head.OverlapLaw (hd : Head) : Prop :=
  (hd.ctx.prog.overlap = .strict → hd.state.running = true → hd.state ≠ .blocked → hd.slot = .empty)
  ∧ (hd.state = .blocked → hd.ctx.prog.overlap = .strict)

/-- The timers run exactly in the states they serve; the latch is full only in BLOCKED, only where the next start is
triggered, and holds a source of the program; the starting source is named exactly under WIDTH while a start is pending or
exposes (R40, R41, R72, R73, R102). -/
abbrev Head.TimerLaw (hd : Head) : Prop :=
  (hd.timers.delay.isSome = true ↔ hd.state = .delay)
  ∧ (hd.timers.strobeWait.isSome = true ↔ hd.state = .strobeWait)
  ∧ (hd.timers.exposure.isSome = true ↔ hd.state.exposes = true)
  ∧ (hd.timers.integration.isSome = true ↔ hd.state = .exposing ∧ hd.ctx.prog.length = .timed)
  ∧ (hd.timers.widthLimit.isSome = true ↔ hd.state = .exposing ∧ hd.ctx.prog.length = .width)
  ∧ (hd.timers.retry ≠ .none → hd.state = .pacing)
  ∧ (∀ l ∈ hd.ctx.latch,
      hd.state = .blocked ∧ hd.ctx.prog.hasSource l.source = true ∧ hd.ctx.nextTriggered = true)
  ∧ (hd.ctx.startLine.isSome = true ↔ hd.ctx.prog.length = .width
      ∧ (hd.state = .delay ∨ hd.state = .strobeWait ∨ hd.state = .exposing))

/-- Whether a spacing timer runs towards its deadline. -/
def SpacingTimer.isRunning : SpacingTimer → Bool
  | .running _ => true
  | .stopped | .expired _ _ => false

/-- The spacing timer: in use only by a running head under Repeat TIMER; stopped in ARMED, in use in PACING and through
every exposure of such a head; PACING waits for it unless it waits for a tick of the overdue count; a PACED pending start
has its expiry time and its overdue count, and another finds it stopped (R40, R41, R44, R58, R66, R105). -/
abbrev Head.SpacingLaw (hd : Head) : Prop :=
  (hd.ctx.spacing ≠ .stopped → hd.state.running = true ∧ hd.ctx.prog.repetition = .timer)
  ∧ (hd.state = .armed → hd.ctx.spacing = .stopped)
  ∧ (hd.state = .pacing → hd.ctx.spacing ≠ .stopped)
  ∧ (hd.state = .pacing → hd.timers.retry = .none → hd.ctx.spacing.isRunning = true)
  ∧ (hd.state.exposes = true → hd.ctx.prog.repetition = .timer → hd.ctx.spacing ≠ .stopped)
  ∧ ∀ p ∈ hd.ctx.pendingStart,
      (p.kind = .paced → hd.ctx.spacing = .expired p.latency p.arrival)
      ∧ (p.kind ≠ .paced → hd.ctx.spacing = .stopped)

/-- The laws of a head's context. -/
abbrev Head.ContextLaw (hd : Head) : Prop :=
  hd.CountLaw ∧ hd.GroupLaw ∧ hd.OverlapLaw ∧ hd.TimerLaw ∧ hd.SpacingLaw

/-- Every head keeps the laws of its context. -/
abbrev State.ContextLaw (s : State) : Prop := ∀ h : HeadIx, (s.head h).ContextLaw

/-! ## Transmitter (R119) -/

/-- The messages that may wait behind the frame being sent: none; one CANCEL while the port is IDLE; while it is BUSY its
own START, alone or behind one CANCEL (R119). -/
def Port.admits : Port → List Message → Bool
  | _, [] => true
  | .idle, [.cancel _] => true
  | .busy _ tag _, [.start _ t _] => decide (t = tag)
  | .busy _ tag _, [.cancel _, .start _ t _] => decide (t = tag)
  | _, _ => false

/-- Nothing waits at an idle transmitter, and what waits is what the port admits: with the frame being sent at most three
messages (R119). -/
abbrev State.TransmitterLaw (s : State) : Prop :=
  (s.link.sending = none → s.link.waiting = []) ∧ s.arb.port.admits s.link.waiting = true

/-! ## All together -/

/-- The laws of the part's blocks. -/
abbrev State.Inv (s : State) : Prop :=
  s.queue.WF ∧ s.LineLaw ∧ s.ClockLaw ∧ s.HeadStateLaw ∧ s.RingLaw ∧ s.ArbiterLaw ∧ s.StrobeLaw ∧ s.ContextLaw

end Sys2Proof.Machine
end

