-- ==== Sys2Proof/WellFormed.lean ====
section
/-! DEFINITION. Which commands are well formed. The operands' types hold every range already but two: an
UNLISTED_COMMAND carries a code that Table 11.4 does not list, a LINK_ERROR carries a frame that fails the examination
of R120. -/

namespace Sys2Proof

/-- The command could be sent under its own row's name. -/
def Instr.wellFormed : Instr → Bool
  | .unlistedCommand word => (cmdOfCode (word.extractLsb' 0 8)).isNone
  | .linkError frame => (examineFrame frame).isNone
  | .powerOnReset | .addressByte _ | .deselect _ | .registerWrite _ => true
  | .start _ | .stop _ | .abort _ | .clear _ | .headReset _ | .softTrigger _ | .apply _ => true
  | .mark _ | .discard _ | .programWrite _ | .programRead _ | .programClear _ | .tbLoad _ | .softReset _ => true
  | .ringDataWrite _ | .ringDataRead | .headDropClear _ | .headEnable _ | .headDisable _ => true
  | .lineEnable _ _ _ | .lineDisable _ _ _ | .lineReconfigure _ _ _ | .lineLevelChange _ _ | .filterExpiry _ => true
  | .rateEnable _ _ | .rateDisable _ _ | .rateDecimation _ _ | .ratePeriodWrite _ _ | .ratePeriodExpiry _ => true
  | .delayExpiry _ | .integrationExpiry _ | .widthLimitExpiry _ | .spacingExpiry _ | .strobeWaitExpiry _ => true
  | .overdueTickAttempt _ | .strobeEnable _ | .strobeDisable _ | .strobePolarity _ _ => true
  | .linkEnable | .linkDisable | .grant | .frameSent | .complete _ _ _ | .shortFrame | .readoutTimeout => true
  | .linkCntClear | .queueRead | .qThreshWrite _ | .tbLoRead | .tbDivWrite _ | .tick => true
  | .irqFlagsClear _ | .byteTimeIdle | .irqEnWrite _ | .irqPolarity _ => true

end Sys2Proof
end

