-- ==== Sys2Proof/Certificates/Slice0/Obligations.lean ====
section
/-! DEFINITION. The statements for the provers. A frame is said as an equation: the next state with the changed blocks put
back is the state before. A rule named in a docstring is the one the statement formalises, in whole where
OBLIGATIONS.json calls it stated. RESULT is compared but for bit 11, to which Table 11.5 gives no item (log 24). -/

section

open Sys2Proof Sys2Proof.Machine

/-! ## The machine -/

/-- A step with a command at the front of the queue is that command on the state with the queue's rest: each event is taken
whole at its turn (Section 0.6, Events; log 22). That the commands wait in one queue is the model's choice (log 18). -/
def Obligations.StepTakesFrontCommand : Prop :=
  ∀ (c : Instr) (rest : List Instr) (s : State),
    step { s with pending := c :: rest } = exec c { s with pending := rest }

/-- The model's choice (log 1): with no command waiting the part takes a due event of its own, and with none due a REFCLK
period passes, which ends the tick when the divider that governs it is reached (R165). An event is due, each once and no other
(log 2): the expiry of a head's timer in the state it serves, of its spacing timer, of a line's filter and of a generator's
period with no tick left, the paced attempt whose tick has come, the timeout of a readout with no tick left, and the grant while
the port is IDLE, the link enabled and the queue not empty (R21, R28, R45, R54, R55, R59, R105, R116, R125). -/
def Obligations.EmptyQueueStep : Prop :=
  ∀ s : State,
    (s.pending = [] →
      (s.dueEvents = [] → s.tb.refclks < s.tb.tickCode.toNat →
        step s = .next { s with tb := { s.tb with refclks := s.tb.refclks + 1, fresh := false } })
      ∧ (s.dueEvents = [] → s.tb.tickCode.toNat ≤ s.tb.refclks → step s = exec .tick s)
      ∧ (∀ c : Instr, s.dueEvents = [c] → step s = exec c s)
      ∧ (2 ≤ s.dueEvents.length →
        ∃ c ∈ s.dueEvents, step s = exec c { s with choices := s.choices + 1 }))
    ∧ s.dueEvents.Nodup
    ∧ (∀ h : HeadIx, let hd := s.head h
      (.delayExpiry h ∈ s.dueEvents ↔ hd.state = .delay ∧ hd.timers.delay = some 0)
      ∧ (.integrationExpiry h ∈ s.dueEvents ↔ hd.state = .exposing ∧ hd.timers.integration = some 0)
      ∧ (.widthLimitExpiry h ∈ s.dueEvents ↔ hd.state = .exposing ∧ hd.timers.widthLimit = some 0)
      ∧ (.spacingExpiry h ∈ s.dueEvents ↔ hd.ctx.spacing = .running 0)
      ∧ (.strobeWaitExpiry h ∈ s.dueEvents ↔ hd.state = .strobeWait ∧ hd.timers.strobeWait = some 0)
      ∧ (.overdueTickAttempt h ∈ s.dueEvents ↔ hd.state = .pacing ∧ hd.timers.retry = .due))
    ∧ (∀ n : LineIx, .filterExpiry n ∈ s.dueEvents ↔
      ∃ level high : Bool, (s.line n).qualifier = some ⟨level, some ⟨high, 0⟩⟩)
    ∧ (∀ g : RateIx, .ratePeriodExpiry g ∈ s.dueEvents ↔ ∃ count : Byte, (s.rate g).run = some ⟨0, count⟩)
    ∧ (.readoutTimeout ∈ s.dueEvents ↔ ∃ (h : HeadIx) (tag : Byte), s.arb.port = .busy h tag 0)
    ∧ (.grant ∈ s.dueEvents ↔ s.arb.port = .idle ∧ s.arb.linkEnable = true ∧ s.arb.queue ≠ [])
    ∧ ∀ c ∈ s.dueEvents, c = .readoutTimeout ∨ c = .grant
      ∨ (∃ h : HeadIx, c ∈ [Instr.delayExpiry h, .integrationExpiry h, .widthLimitExpiry h, .spacingExpiry h,
          .strobeWaitExpiry h, .overdueTickAttempt h])
      ∨ (∃ n : LineIx, c = .filterExpiry n) ∨ ∃ g : RateIx, c = .ratePeriodExpiry g

/-- Every command, with every operand and in every state, answers a next state. That it leaves the queue of waiting commands
is the model's choice: the queue is its own (log 18), and POWER_ON_RESET keeps it too (log 11). -/
def Obligations.EveryCommandCompletes : Prop :=
  ∀ (c : Instr) (s : State), ∃ t : State, exec c s = .next t ∧ t.pending = s.pending

/-! ## Resets -/

/-- State.reset is the power-on state of every block, the registers read as Table 11.1's power-on column and the outputs
stand as Table 11.9; the laws of Safety.lean hold there. -/
def Obligations.ResetIsPowerOnState : Prop :=
  (∀ n : EntryIx, State.reset.entry n = ⟨false, Program.zero⟩)
  ∧ (∀ i : Fin 16, State.reset.buffer[i.val]'i.isLt = 0)
  ∧ (∀ n : LineIx, State.reset.line n = ⟨false, 0, none⟩)
  ∧ (∀ g : RateIx, State.reset.rate g = ⟨0, 0, 0, 0, none⟩)
  ∧ (∀ h : HeadIx, let hd := State.reset.head h
      hd.enabled = false ∧ hd.state = .off ∧ hd.ctx = Context.cleared ∧ hd.timers = HeadTimers.stopped
      ∧ hd.slot = .empty ∧ hd.drops = 0 ∧ hd.seq = 0 ∧ hd.lost = 0 ∧ hd.restart = true
      ∧ hd.ring.staged = hd.ring.live ∧ hd.ring.live.length = 1 ∧ hd.ring.live.sets[0] = ⟨100, 0, 0⟩
      ∧ (∀ i : SetIx, i ≠ 0 → hd.ring.live.sets[i.val]'i.isLt = ⟨0, 0, 0⟩)
      ∧ hd.ring.pointer = 0 ∧ hd.ring.applyPending = false ∧ hd.ring.withdrawn = false)
  ∧ (∀ n : ChanIx, State.reset.chan n = ⟨false, false, none, []⟩)
  ∧ State.reset.arb = ⟨[], .idle, 0, false, 0, 0⟩
  ∧ State.reset.link = ⟨none, [], true⟩
  ∧ State.reset.queue = ⟨[], 0, 1⟩
  ∧ State.reset.tb = ⟨0, 0, 0, 0, false, 0⟩
  ∧ State.reset.irq = ⟨0, 0, false⟩
  ∧ State.reset.port = ⟨none, none, 0, 0, 0, 0, ⟨0, false, 0⟩⟩
  ∧ State.reset.pending = []
  ∧ (∀ a : Addr, a ≠ 0x21 → regRead State.reset a = if a = 0x64 then 1 else 0)
  ∧ State.reset.irqPin = true ∧ (∀ h : HeadIx, State.reset.expPin h = false)
  ∧ (∀ n : ChanIx, State.reset.stbPin n = false) ∧ State.reset.ltxFrame = []
  ∧ State.reset.Inv ∧ State.reset.TransmitterLaw

/-- POWER_ON_RESET puts every block into its power-on state; the pins' levels and the waiting commands come from outside
(R184; log 11). SOFT_RESET acts on every block and keeps the configuration that each block names (R26, R27, R69, R96, R112,
R129, R149, R172, R180; log 10). -/
def Obligations.ResetCommands : Prop :=
  (∀ s : State, exec .powerOnReset s
    = .next { State.reset with tin := s.tin, choices := s.choices, pending := s.pending })
  ∧ ∀ (u : Byte) (s : State), ∃ t : State, exec (.softReset u) s = .next t
    ∧ t.port.result &&& 0xF7FF = 0x005A
    ∧ (∀ h : HeadIx, t.head h = { s.head h with
        state := if (s.head h).enabled then .idle else .off
        ctx := Context.cleared
        timers := HeadTimers.stopped
        slot := .empty
        ring := { (s.head h).ring with pointer := 0, applyPending := false, withdrawn := false }
        drops := 0, seq := 0, lost := 0, restart := true })
    ∧ (∀ n : ChanIx, t.chan n = { s.chan n with holder := none, waiters := [] })
    ∧ (∀ n : LineIx, t.line n = { s.line n with
        qualifier := match (s.line n).qualifier with
          | none => none
          | some _ => some ⟨s.pin n, none⟩ })
    ∧ (∀ g : RateIx, t.rate g = { s.rate g with run := none })
    ∧ t.arb = { s.arb with queue := [], port := .idle, stray := 0, linkErrors := 0 }
    ∧ t.link = (match s.arb.port with
        | .busy _ tag _ => s.link.pass (.cancel tag)
        | .idle => s.link)
    ∧ t.queue = { s.queue with records := [], readPos := 0 }
    ∧ t.irq = { s.irq with flags := 0 }
    ∧ { t with heads := s.heads, chans := s.chans, lines := s.lines, rates := s.rates, arb := s.arb, link := s.link,
               queue := s.queue, irq := s.irq, port := s.port } = s

/-! ## Host port -/

/-- An address byte opens a transaction: bit 7 the direction, bits 6:0 the address (R173). A deselect ends it with no
effect on a register, but that the capture of a TB_LO read word that it cuts off stands (R175). The model's choices are in log
5 and 6. -/
def Obligations.AddressByteAndDeselect : Prop :=
  (∀ (b : Byte) (s : State), exec (.addressByte b) s = .next { s with
    port := { s.port with transaction := some ⟨b.getLsbD 7, b.extractLsb' 0 7⟩, sdo := none } })
  ∧ ∀ (cut : Bool) (s : State),
    let ended : State := { s with port := { s.port with transaction := none, sdo := none } }
    (cut = true → s.port.transaction = some ⟨true, 0x68⟩ → exec (.deselect cut) s
      = .next { ended with tb := { s.tb with captured := s.tb.counter.extractLsb' 16 16 } })
    ∧ (cut = false ∨ s.port.transaction ≠ some ⟨true, 0x68⟩ → exec (.deselect cut) s = .next ended)

/-- What every register shows of the state in which its read is taken, an address not listed zero, and EXPn active exactly in
EXPOSING and EXTENDING (R22, R25, R30, R53, R67, R108, R111, R127, R128, R147, R148, R168 to R171, R176, R177, Tables 11.1 and
11.3; what a RING_DATA and a Q_PORT word read is RingDataTransfers' and QueueReadTakesOneWord's). The occupancy is the summed
lengths of the queue's records less the words already read of the oldest one (R130). The queue's premise is that its occupancy
is at most 512 words, a threshold's that it fits its register. That bit 7 of HEAD_STATn, to which Table 11.3 gives no item, reads
zero is the model's choice (log 24). -/
def Obligations.StatusRegistersShowTheState : Prop :=
  ∀ s : State,
    (∀ h : HeadIx, let hd := s.head h
      let w := regRead s (0x28#7 + BitVec.ofNat 7 h.val)
      (w.extractLsb' 0 4).toNat = [ExpState.off, .idle, .armed, .pacing, .delay, .strobeWait, .exposing, .extending, .blocked,
        .draining, .fault].idxOf hd.state
      ∧ (w.extractLsb' 4 2).toNat = (match hd.slot with
        | .empty => 0
        | .queued _ => 1
        | .active _ => 2)
      ∧ w.getLsbD 6 = hd.ring.withdrawn ∧ w.getLsbD 7 = false ∧ (w.extractLsb' 8 5).toNat = hd.ctx.progIndex.val
      ∧ w.getLsbD 13 = hd.ctx.group.isSome ∧ w.getLsbD 14 = hd.ctx.stopPending ∧ w.getLsbD 15 = hd.ctx.latch.isSome
      ∧ regRead s (0x2C#7 + BitVec.ofNat 7 h.val) = hd.drops ∧ regRead s (0x30#7 + BitVec.ofNat 7 h.val) = hd.lost
      ∧ (regRead s 0x34).getLsbD h.val = hd.enabled ∧ (regRead s 0x34).extractLsb' 4 12 = 0
      ∧ (s.expPin h = true ↔ hd.state = .exposing ∨ hd.state = .extending))
    ∧ (∀ n : LineIx, let l := s.line n
      let w := regRead s (0x38#7 + BitVec.ofNat 7 n.val)
      w.getLsbD 15 = l.qualifier.isSome ∧ w.extractLsb' 9 6 = 0 ∧ w.getLsbD 8 = l.activeLow ∧ w.extractLsb' 0 8 = l.filter
      ∧ ((regRead s 0x40).getLsbD n.val = true ↔ ∃ q : Qualifier, l.qualifier = some q ∧ q.high ≠ l.activeLow)
      ∧ ((regRead s 0x40).getLsbD (8 + n.val) = true ↔ ∃ q : Qualifier, l.qualifier = some q ∧ q.candidate ≠ none))
    ∧ (∀ g : RateIx, let w := regRead s (0x46#7 + 4#7 * BitVec.ofNat 7 g.val)
      w.getLsbD 15 = (s.rate g).run.isSome ∧ w.extractLsb' 8 7 = 0 ∧ w.extractLsb' 0 8 = (s.rate g).decimation
      ∧ regRead s (0x44#7 + 4#7 * BitVec.ofNat 7 g.val) = (s.rate g).periodLo
      ∧ regRead s (0x45#7 + 4#7 * BitVec.ofNat 7 g.val) = 0#8 ++ (s.rate g).periodHi)
    ∧ (∀ n : ChanIx, let c := s.chan n
      let w := (regRead s 0x51).extractLsb' (4 * n.val) 4
      (regRead s 0x50).getLsbD n.val = c.enabled ∧ (regRead s 0x50).getLsbD (8 + n.val) = c.activeLow
      ∧ w.getLsbD 3 = !c.waiters.isEmpty ∧ w.getLsbD 2 = c.holder.isSome
      ∧ (w.extractLsb' 0 2).toNat = (c.holder.getD 0).val)
    ∧ (regRead s 0x50).extractLsb' 4 4 = 0 ∧ (regRead s 0x50).extractLsb' 12 4 = 0
    ∧ (regRead s 0x58).toNat = (if s.arb.linkEnable then 1 else 0)
    ∧ (let w := regRead s 0x59
      w.getLsbD 15 = decide (s.arb.port ≠ .idle) ∧ (w.extractLsb' 13 2).toNat = (s.arb.port.head?.getD 0).val
      ∧ (s.arb.queue.length < 8 → (w.extractLsb' 10 3).toNat = s.arb.queue.length)
      ∧ (w.extractLsb' 8 2).toNat = (s.arb.queue.headD 0).val
      ∧ w.extractLsb' 0 8 = (match s.arb.port with
        | .busy _ tag _ => tag
        | .idle => s.arb.tagCounter))
    ∧ regRead s 0x5A = s.arb.stray ++ s.arb.linkErrors
    ∧ s.queue.occupancy = (s.queue.records.map fun r => r.words.length).sum - s.queue.readPos
    ∧ (s.queue.occupancy ≤ 512 → (regRead s 0x61).toNat = s.queue.occupancy
      ∧ (s.queue.records.length ≤ 512 → (regRead s 0x62).toNat = s.queue.records.length)
      ∧ (s.queue.readPos = 0 → regRead s 0x63 = 0)
      ∧ ∀ (r : Record) (rs : List Record), s.queue.records = r :: rs → 0 < s.queue.readPos →
        (regRead s 0x63).toNat = r.words.length - s.queue.readPos)
    ∧ (s.queue.threshold ≤ 512 → (regRead s 0x64).toNat = s.queue.threshold)
    ∧ regRead s 0x00 = s.port.arg0 ∧ regRead s 0x01 = s.port.arg1 ∧ regRead s 0x02 = s.port.cmd
    ∧ regRead s 0x03 = s.port.result
    ∧ (∀ i : Fin 16, regRead s (0x10#7 + BitVec.ofNat 7 i.val) = s.buffer[i.val]'i.isLt)
    ∧ (let w := regRead s 0x20
      (w.extractLsb' 0 2).toNat = s.port.ringSel.head.val ∧ w.getLsbD 2 = s.port.ringSel.live ∧ w.extractLsb' 3 5 = 0
      ∧ (w.extractLsb' 8 6).toNat = s.port.ringSel.pos.val ∧ w.extractLsb' 14 2 = 0)
    ∧ regRead s 0x68 = s.tb.counter.extractLsb' 0 16 ∧ regRead s 0x69 = s.tb.captured
    ∧ regRead s 0x6A = 0#8 ++ s.tb.divCode
    ∧ (let w := regRead s 0x70
      (w.getLsbD 0 = true ↔ s.queue.threshold ≤ s.queue.occupancy)
      ∧ (∀ i : Fin 16, i.val ∈ [1, 2, 3, 4, 8, 9, 10, 11, 12, 13, 14, 15] → w.getLsbD i.val = s.irq.flags.getLsbD i.val)
      ∧ w.extractLsb' 5 3 = 0)
    ∧ regRead s 0x71 = s.irq.enables ∧ (regRead s 0x72).toNat = (if s.irq.activeHigh then 1 else 0)
    ∧ ∀ a : Addr, (0x04#7 ≤ a ∧ a ≤ 0x0F#7) ∨ (0x22#7 ≤ a ∧ a ≤ 0x27#7) ∨ (0x35#7 ≤ a ∧ a ≤ 0x37#7)
        ∨ (0x41#7 ≤ a ∧ a ≤ 0x43#7) ∨ a = 0x47#7 ∨ (0x4B#7 ≤ a ∧ a ≤ 0x4F#7) ∨ (0x52#7 ≤ a ∧ a ≤ 0x57#7)
        ∨ (0x5B#7 ≤ a ∧ a ≤ 0x5F#7) ∨ (0x65#7 ≤ a ∧ a ≤ 0x67#7) ∨ (0x6B#7 ≤ a ∧ a ≤ 0x6F#7) ∨ 0x73#7 ≤ a →
      regRead s a = 0

/-- A word of a write transaction is stored in ARG0, ARG1, a DB register, RING_SEL and a period's lower register; a
read-only register and an address not listed ignore it; the address advances, and a port register holds it (R2, R30, R86, R174,
R176). In a read transaction a full word shifts out the register's word, SDI disregarded, and the address advances alike (R173,
R174); that the row stands for such a word is the model's choice (log 6), and so is that nothing is transferred with no
transaction open (log 15). -/
def Obligations.RegisterWriteStores : Prop :=
  ∀ (w : Word) (s : State),
    (∀ a : Addr, s.port.transaction = some ⟨false, a⟩ →
      (a = 0x00 → exec (.registerWrite w) s = .next { s with
        port := { s.port with arg0 := w, transaction := some ⟨false, 0x01⟩, sdo := none } })
      ∧ (a = 0x01 → exec (.registerWrite w) s = .next { s with
        port := { s.port with arg1 := w, transaction := some ⟨false, 0x02⟩, sdo := none } })
      ∧ (∀ i : Fin 16, a = 0x10#7 + BitVec.ofNat 7 i.val → exec (.registerWrite w) s = .next { s with
        buffer := s.buffer.set i.val w i.isLt
        port := { s.port with transaction := some ⟨false, a + 1⟩, sdo := none } })
      ∧ (a = 0x20 → exec (.registerWrite w) s = .next { s with
        port := { s.port with
          ringSel := ⟨(w.extractLsb' 0 2).toFin, w.getLsbD 2, Fin.ofNat 33 (min (w.extractLsb' 8 6).toNat 32)⟩
          transaction := some ⟨false, 0x21⟩
          sdo := none } })
      ∧ (∀ g : RateIx, a = 0x44#7 + 4#7 * BitVec.ofNat 7 g.val →
        exec (.registerWrite w) s = .next { s.setRate g { s.rate g with periodLo := w } with
          port := { s.port with transaction := some ⟨false, a + 1⟩, sdo := none } })
      ∧ (a ∈ [0x03#7, 0x28#7, 0x29#7, 0x2A#7, 0x2B#7, 0x30#7, 0x31#7, 0x32#7, 0x33#7, 0x40#7, 0x51#7, 0x59#7, 0x60#7,
            0x61#7, 0x62#7, 0x63#7, 0x68#7, 0x69#7]
          ∨ (0x04#7 ≤ a ∧ a ≤ 0x0F#7) ∨ (0x22#7 ≤ a ∧ a ≤ 0x27#7) ∨ (0x35#7 ≤ a ∧ a ≤ 0x37#7)
          ∨ (0x41#7 ≤ a ∧ a ≤ 0x43#7) ∨ a = 0x47#7 ∨ (0x4B#7 ≤ a ∧ a ≤ 0x4F#7) ∨ (0x52#7 ≤ a ∧ a ≤ 0x57#7)
          ∨ (0x5B#7 ≤ a ∧ a ≤ 0x5F#7) ∨ (0x65#7 ≤ a ∧ a ≤ 0x67#7) ∨ (0x6B#7 ≤ a ∧ a ≤ 0x6F#7) ∨ 0x73#7 ≤ a →
        exec (.registerWrite w) s = .next { s with
          port := { s.port with
            transaction := some ⟨false, if a = 0x60 then a else a + 1⟩
            sdo := none } }))
    ∧ (∀ a : Addr, s.port.transaction = some ⟨true, a⟩ → a ∉ [0x02#7, 0x21#7, 0x60#7, 0x68#7] →
        exec (.registerWrite w) s = .next { s with
          port := { s.port with transaction := some ⟨true, a + 1⟩, sdo := some (regRead s a) } })
    ∧ (s.port.transaction = some ⟨true, 0x02⟩ →
        exec (.registerWrite w) s = .next { s with port := { s.port with sdo := some s.port.cmd } })
    ∧ (s.port.transaction = none → exec (.registerWrite w) s = .next s)

/-- The model's choice (log 15, for read words log 6): a word transferred at a register that has a row of its own does what
that row does. A HEAD_EN word acts on each head whose mark it changes, one after the other in some order (R36, R114; log 3, 4);
a STROBE_CFG word sets all eight settings, channel by channel (R108; log 15). -/
def Obligations.RegisterWriteActsAsTheRow : Prop :=
  (∀ (s : State) (w : Word),
    (s.port.transaction = some ⟨true, 0x21⟩ → exec (.registerWrite w) s = exec .ringDataRead s)
    ∧ (s.port.transaction = some ⟨true, 0x60⟩ → exec (.registerWrite w) s = exec .queueRead s)
    ∧ (s.port.transaction = some ⟨true, 0x68⟩ → exec (.registerWrite w) s = exec .tbLoRead s))
  ∧ ∀ (s : State) (a : Addr), s.port.transaction = some ⟨false, a⟩ → ∀ (u : Byte) (w : Word),
    (a = 0x02 →
      exec (.registerWrite (u ++ 0x01#8)) s = exec (.start u) s
      ∧ exec (.registerWrite (u ++ 0x02#8)) s = exec (.stop u) s
      ∧ exec (.registerWrite (u ++ 0x03#8)) s = exec (.abort u) s
      ∧ exec (.registerWrite (u ++ 0x04#8)) s = exec (.clear u) s
      ∧ exec (.registerWrite (u ++ 0x05#8)) s = exec (.headReset u) s
      ∧ exec (.registerWrite (u ++ 0x06#8)) s = exec (.softTrigger u) s
      ∧ exec (.registerWrite (u ++ 0x07#8)) s = exec (.apply u) s
      ∧ exec (.registerWrite (u ++ 0x08#8)) s = exec (.mark u) s
      ∧ exec (.registerWrite (u ++ 0x09#8)) s = exec (.discard u) s
      ∧ exec (.registerWrite (u ++ 0x10#8)) s = exec (.programWrite u) s
      ∧ exec (.registerWrite (u ++ 0x11#8)) s = exec (.programRead u) s
      ∧ exec (.registerWrite (u ++ 0x12#8)) s = exec (.programClear u) s
      ∧ exec (.registerWrite (u ++ 0x20#8)) s = exec (.tbLoad u) s
      ∧ exec (.registerWrite (u ++ 0x5A#8)) s = exec (.softReset u) s
      ∧ exec (.registerWrite w) s = exec (.unlistedCommand w) s)
    ∧ (a = 0x21 → exec (.registerWrite w) s = exec (.ringDataWrite w) s)
    ∧ (∀ h : HeadIx, a = 0x2C#7 + BitVec.ofNat 7 h.val → exec (.registerWrite w) s = exec (.headDropClear h) s)
    ∧ (∀ h : HeadIx, a = 0x34 → (∀ k : HeadIx, k ≠ h → w.getLsbD k.val = (s.head k).enabled) →
        exec (.registerWrite w) s = if w.getLsbD h.val then exec (.headEnable h) s else exec (.headDisable h) s)
    ∧ (a = 0x34 → ∃ (t : State) (order : List HeadIx) (k : Nat), exec (.registerWrite w) s = .next t
        ∧ order.Perm (allHeads.filter fun h => (s.head h).enabled != w.getLsbD h.val)
        ∧ t.port = { s.port with transaction := some ⟨false, 0x35⟩, sdo := none }
        ∧ { t with port := s.port }
          = inTurn (fun h => setHeadEnable h (w.getLsbD h.val)) order { s with choices := k })
    ∧ (∀ n : LineIx, a = 0x38#7 + BitVec.ofNat 7 n.val →
        exec (.registerWrite w) s = if w.getLsbD 15 then exec (.lineEnable n (w.getLsbD 8) (w.extractLsb' 0 8)) s
          else exec (.lineDisable n (w.getLsbD 8) (w.extractLsb' 0 8)) s)
    ∧ (∀ g : RateIx, a = 0x45#7 + 4#7 * BitVec.ofNat 7 g.val →
        exec (.registerWrite w) s = exec (.ratePeriodWrite g (w.extractLsb' 0 8)) s)
    ∧ (∀ g : RateIx, a = 0x46#7 + 4#7 * BitVec.ofNat 7 g.val →
        exec (.registerWrite w) s = if w.getLsbD 15 then exec (.rateEnable g (w.extractLsb' 0 8)) s
          else exec (.rateDisable g (w.extractLsb' 0 8)) s)
    ∧ (∀ n : ChanIx, a = 0x50 →
        (∀ k : ChanIx, k ≠ n → w.getLsbD k.val = (s.chan k).enabled ∧ w.getLsbD (8 + k.val) = (s.chan k).activeLow) →
        (w.getLsbD (8 + n.val) = (s.chan n).activeLow →
          exec (.registerWrite w) s = if w.getLsbD n.val then exec (.strobeEnable n) s else exec (.strobeDisable n) s)
        ∧ (w.getLsbD n.val = (s.chan n).enabled →
          exec (.registerWrite w) s = exec (.strobePolarity n (w.getLsbD (8 + n.val))) s))
    ∧ (a = 0x50 → ∃ t : State, exec (.registerWrite w) s = .next t
        ∧ t.port = { s.port with transaction := some ⟨false, 0x51⟩, sdo := none }
        ∧ { t with port := s.port } = setStrobe 3 (w.getLsbD 3) (w.getLsbD 11) (setStrobe 2 (w.getLsbD 2) (w.getLsbD 10)
            (setStrobe 1 (w.getLsbD 1) (w.getLsbD 9) (setStrobe 0 (w.getLsbD 0) (w.getLsbD 8) s))))
    ∧ (a = 0x58 → exec (.registerWrite w) s = if w.getLsbD 0 then exec .linkEnable s else exec .linkDisable s)
    ∧ (a = 0x5A → exec (.registerWrite w) s = exec .linkCntClear s)
    ∧ (a = 0x64 → exec (.registerWrite w) s = exec (.qThreshWrite w) s)
    ∧ (a = 0x6A → exec (.registerWrite w) s = exec (.tbDivWrite w) s)
    ∧ (a = 0x70 → exec (.registerWrite w) s = exec (.irqFlagsClear w) s)
    ∧ (a = 0x71 → exec (.registerWrite w) s = exec (.irqEnWrite w) s)
    ∧ (a = 0x72 → exec (.registerWrite w) s = exec (.irqPolarity (w.getLsbD 0)) s)

/-- A command word stays in CMD, RESULT carries its code, ARG0, ARG1 and RING_SEL keep their contents, and the
transaction stays at CMD; a code that Table 11.4 does not list is refused with BAD_ARG and acts on no block (R174, R178, R179).
Every other row of a host word leaves the port's registers as they were and the transaction at the address behind its own, at
Q_PORT for a Q_PORT word, with SDO as R173 says; a row that is no host word leaves the whole port (R173, R174, R175). The
model's choices: whatever was open before the row, a transaction of its direction is open after it (log 5), a word read stands on
SDO (log 6), and bit 11 of RESULT, to which Table 11.5 gives no item, reads zero (log 24). RING_DATA's words are RingDataTransfers'. -/
def Obligations.CommandWordAtThePort : Prop :=
  (∀ (u : Byte) (s : State) (i : Instr) (code : Byte),
    (i, code) ∈ [(Instr.start u, 0x01#8), (.stop u, 0x02#8), (.abort u, 0x03#8), (.clear u, 0x04#8),
      (.headReset u, 0x05#8), (.softTrigger u, 0x06#8), (.apply u, 0x07#8), (.mark u, 0x08#8), (.discard u, 0x09#8),
      (.programWrite u, 0x10#8), (.programRead u, 0x11#8), (.programClear u, 0x12#8), (.tbLoad u, 0x20#8),
      (.softReset u, 0x5A#8)] →
    ∃ t : State, exec i s = .next t ∧ t.port.cmd = u ++ code ∧ t.port.result.extractLsb' 0 8 = code
      ∧ t.port.result.getLsbD 11 = false
      ∧ { t.port with cmd := s.port.cmd, result := s.port.result }
        = { s.port with transaction := some ⟨false, 0x02⟩, sdo := none })
  ∧ (∀ (w : Word) (s : State),
      w.extractLsb' 0 8 ∉ [0x01#8, 0x02#8, 0x03#8, 0x04#8, 0x05#8, 0x06#8, 0x07#8, 0x08#8, 0x09#8, 0x10#8, 0x11#8,
        0x12#8, 0x20#8, 0x5A#8] →
      exec (.unlistedCommand w) s = .next { s with
        port := { s.port with
          cmd := w
          result := 0xA0#8 ++ w.extractLsb' 0 8
          transaction := some ⟨false, 0x02⟩
          sdo := none } })
  ∧ (∀ (s : State) (h : HeadIx) (n : LineIx) (g : RateIx) (c : ChanIx) (low : Bool) (code : Byte) (w : Word) (i : Instr)
      (a : Addr),
    (i, a) ∈ [(Instr.headDropClear h, 0x2C#7 + BitVec.ofNat 7 h.val), (.headEnable h, 0x34#7), (.headDisable h, 0x34#7),
      (.lineEnable n low code, 0x38#7 + BitVec.ofNat 7 n.val), (.lineDisable n low code, 0x38#7 + BitVec.ofNat 7 n.val),
      (.lineReconfigure n low code, 0x38#7 + BitVec.ofNat 7 n.val),
      (.ratePeriodWrite g code, 0x45#7 + 4#7 * BitVec.ofNat 7 g.val), (.rateEnable g code, 0x46#7 + 4#7 * BitVec.ofNat 7 g.val),
      (.rateDisable g code, 0x46#7 + 4#7 * BitVec.ofNat 7 g.val), (.rateDecimation g code, 0x46#7 + 4#7 * BitVec.ofNat 7 g.val),
      (.strobeEnable c, 0x50#7), (.strobeDisable c, 0x50#7), (.strobePolarity c low, 0x50#7), (.linkEnable, 0x58#7),
      (.linkDisable, 0x58#7), (.linkCntClear, 0x5A#7), (.qThreshWrite w, 0x64#7), (.tbDivWrite w, 0x6A#7),
      (.irqFlagsClear w, 0x70#7), (.irqEnWrite w, 0x71#7), (.irqPolarity low, 0x72#7)] →
    ∃ t : State, exec i s = .next t ∧ t.port = { s.port with transaction := some ⟨false, a + 1⟩, sdo := none })
  ∧ (∀ s : State, ∃ t : State, exec .queueRead s = .next t
    ∧ t.port = { s.port with
        transaction := some ⟨true, 0x60⟩
        sdo := some (match s.queue.records with
          | [] => 0
          | r :: _ => r.words.getD s.queue.readPos 0) })
  ∧ (∀ s : State, ∃ t : State, exec .tbLoRead s = .next t
    ∧ t.port = { s.port with transaction := some ⟨true, 0x69⟩, sdo := some (s.tb.counter.extractLsb' 0 16) })
  ∧ ∀ (s : State) (h : HeadIx) (n : LineIx) (g : RateIx) (high : Bool) (tag : Byte) (status : Status) (level : Word)
      (f : RxFrame) (i : Instr),
    i ∈ [Instr.lineLevelChange n high, .filterExpiry n, .ratePeriodExpiry g, .delayExpiry h, .integrationExpiry h,
      .widthLimitExpiry h, .spacingExpiry h, .strobeWaitExpiry h, .overdueTickAttempt h, .grant, .frameSent,
      .complete tag status level, .linkError f, .shortFrame, .readoutTimeout, .tick, .byteTimeIdle] →
    ∃ t : State, exec i s = .next t ∧ t.port = s.port

/-! ## Programs -/

/-- R13. -/
def Obligations.ProgramWriteCopiesBuffer : Prop :=
  ∀ (u : Byte) (s : State), ∃ t : State, exec (.programWrite u) s = .next t
    ∧ (∀ n : EntryIx, s.port.arg0.toNat = n.val →
        t.entry n = ⟨true, programOfBuffer s.buffer⟩ ∧ (∀ k : EntryIx, k ≠ n → t.entry k = s.entry k)
        ∧ t.port.result &&& 0xF7FF = 0x0010 ∧ { t with table := s.table, port := s.port } = s)
    ∧ (31 < s.port.arg0.toNat → t.port.result &&& 0xF7FF = 0xA010 ∧ { t with port := s.port } = s)

/-- R14. -/
def Obligations.ProgramReadFillsBuffer : Prop :=
  ∀ (u : Byte) (s : State), ∃ t : State, exec (.programRead u) s = .next t
    ∧ (∀ n : EntryIx, s.port.arg0.toNat = n.val →
        programOfBuffer t.buffer = (s.entry n).prog ∧ t.buffer[0].getLsbD 15 = (s.entry n).valid
        ∧ t.buffer[0].extractLsb' 11 4 = 0 ∧ t.buffer[2].extractLsb' 8 8 = 0 ∧ t.buffer[3].extractLsb' 6 2 = 0
        ∧ t.buffer[5].extractLsb' 8 8 = 0 ∧ t.buffer[6].extractLsb' 5 3 = 0 ∧ t.buffer[8].extractLsb' 8 8 = 0
        ∧ t.buffer[11].extractLsb' 8 8 = 0 ∧ t.buffer[12].extractLsb' 6 10 = 0
        ∧ t.buffer[13] = 0 ∧ t.buffer[14] = 0 ∧ t.buffer[15] = 0
        ∧ (s.table = State.reset.table → (∀ i : Fin 16, t.buffer[i.val]'i.isLt = 0))
        ∧ t.port.result &&& 0xF7FF = 0x0011 ∧ { t with buffer := s.buffer, port := s.port } = s)
    ∧ (31 < s.port.arg0.toNat → t.port.result &&& 0xF7FF = 0xA011 ∧ { t with port := s.port } = s)

/-- R15. -/
def Obligations.ProgramClearKeepsCodes : Prop :=
  (∀ (u : Byte) (s : State), ∃ t : State, exec (.programClear u) s = .next t
    ∧ (∀ n : EntryIx, s.port.arg0.toNat = n.val →
        t.entry n = ⟨false, (s.entry n).prog⟩ ∧ (∀ k : EntryIx, k ≠ n → t.entry k = s.entry k)
        ∧ t.port.result &&& 0xF7FF = 0x0012 ∧ validate (t.entry n) = some .invalidEntry
        ∧ ((s.entry n).valid = false → { t with port := s.port } = s)
        ∧ { t with table := s.table, port := s.port } = s)
    ∧ (31 < s.port.arg0.toNat → t.port.result &&& 0xF7FF = 0xA012 ∧ { t with port := s.port } = s))
  ∧ (∀ (u : Byte) (s : State) (h : HeadIx) (n : EntryIx), s.port.arg0.toNat = h.val → s.port.arg1.toNat = n.val →
      (s.head h).state = .idle → (s.entry n).valid = false →
      ∃ t : State, exec (.start u) s = .next t ∧ t.port.result &&& 0xF7FF = 0xC101 ∧ { t with port := s.port } = s)
  ∧ ∀ (h : HeadIx) (s : State) (n : EntryIx), (s.head h).ctx.stopPending = false → (s.head h).ctx.prog.burst ≠ 0 →
      (s.head h).ctx.groupsDone = (s.head h).ctx.prog.burst →
      (s.head h).ctx.prog.link.toNat = n.val + 1 → (s.entry n).valid = false →
      decideBurst h s = enterDraining h
        (offer h (.burstEnd .linkInvalid (some .invalidEntry) (s.head h).ctx.progIndex (some n)) s)

/-- R16. -/
def Obligations.ValidationOrder : Prop :=
  ∀ e : Entry,
    let p := e.prog
    let noLine := p.length = .width ∧ ¬ ∃ n : LineIx, p.sources = 1#11 <<< n.val
    let widthTimer := p.length = .width ∧ p.repetition = .timer
    let range := 1048575 < p.delay.toNat ∨ (p.widthLimit = 0 ∧ p.length = .width) ∨ p.accumulate = 0
      ∨ 16 < p.accumulate.toNat ∨ (p.spacing = 0 ∧ p.repetition = .timer)
      ∨ (5 ≤ p.strobe.toNat ∧ p.strobe.toNat ≤ 7) ∨ p.readoutLimit = 0 ∨ (33 ≤ p.link.toNat ∧ p.link.toNat ≤ 63)
    (e.valid = false → validate e = some .invalidEntry)
    ∧ (e.valid = true → p.sources = 0 → validate e = some .noSource)
    ∧ (e.valid = true → p.sources ≠ 0 → noLine → validate e = some .widthSource)
    ∧ (e.valid = true → p.sources ≠ 0 → ¬ noLine → widthTimer → validate e = some .widthRepeat)
    ∧ (e.valid = true → p.sources ≠ 0 → ¬ noLine → ¬ widthTimer → range → validate e = some .range)
    ∧ (e.valid = true → p.sources ≠ 0 → ¬ noLine → ¬ widthTimer → ¬ range → validate e = none)

/-- Table 11.2 both ways. Every code of a program stands in the buffer at the word and the bits that the table gives: in the
buffer that PROGRAM_READ fills from an entry, and in any buffer for the program that PROGRAM_WRITE takes from it. Each way
undoes the other: an entry comes back whole, and a buffer comes back with its positions of no field zero. -/
def Obligations.DescriptorRoundTrip : Prop :=
  (∀ (b : Vector Word 16) (e : Entry),
    let p := e.prog
    (b = bufferOfEntry e ∨ (e.valid = b[0].getLsbD 15 ∧ p = programOfBuffer b)) →
    b[0].getLsbD 15 = e.valid ∧ b[0].extractLsb' 0 11 = p.sources
    ∧ (∀ src : Source, p.hasSource src = b[0].getLsbD (match src with
        | .line n => n.val
        | .soft => 8
        | .rate g => 9 + g.val))
    ∧ b[1] = p.delay.extractLsb' 0 16 ∧ b[2].extractLsb' 0 8 = p.delay.extractLsb' 16 8
    ∧ (b[3].getLsbD 0 = true ↔ p.length = .width) ∧ (b[3].getLsbD 1 = true ↔ p.repetition = .timer)
    ∧ (b[3].getLsbD 2 = true ↔ p.overlap = .overlap) ∧ (b[3].getLsbD 3 = true ↔ p.policy = .dark)
    ∧ (b[3].getLsbD 4 = true ↔ p.priority = .urgent) ∧ b[3].getLsbD 5 = p.dropNotices
    ∧ b[3].extractLsb' 8 3 = p.strobe
    ∧ b[3].getLsbD 11 = wantsTime p.fields ∧ b[3].getLsbD 12 = wantsSpan p.fields ∧ b[3].getLsbD 13 = wantsSet p.fields
    ∧ b[3].getLsbD 14 = wantsCause p.fields ∧ b[3].getLsbD 15 = wantsResult p.fields
    ∧ b[4] = p.widthLimit.extractLsb' 0 16 ∧ b[5].extractLsb' 0 8 = p.widthLimit.extractLsb' 16 8
    ∧ b[6].extractLsb' 0 5 = p.accumulate ∧ b[6].extractLsb' 8 8 = p.burst
    ∧ b[7] = p.spacing.extractLsb' 0 16 ∧ b[8].extractLsb' 0 8 = p.spacing.extractLsb' 16 8
    ∧ b[9] = p.strobeWait
    ∧ b[10] = p.readoutLimit.extractLsb' 0 16 ∧ b[11].extractLsb' 0 8 = p.readoutLimit.extractLsb' 16 8
    ∧ b[12].extractLsb' 0 6 = p.link)
  ∧ (∀ e : Entry, programOfBuffer (bufferOfEntry e) = e.prog ∧ (bufferOfEntry e)[0].getLsbD 15 = e.valid)
  ∧ ∀ (b : Vector Word 16) (i : Fin 16), (bufferOfEntry ⟨b[0].getLsbD 15, programOfBuffer b⟩)[i.val]'i.isLt
      = b[i.val]'i.isLt &&& [0x87FF#16, 0xFFFF, 0x00FF, 0xFF3F, 0xFFFF, 0x00FF, 0xFF1F, 0xFFFF, 0x00FF, 0xFFFF, 0xFFFF,
        0x00FF, 0x003F, 0, 0, 0].getD i.val 0

/-! ## Frames and record words -/

/-- The frame of a COMPLETE has the bytes of Table 11.6; it is examined as that COMPLETE, and a frame examined as a COMPLETE is
its frame; no other six bytes are (R120, R182). The check byte is the CRC-8 of R182: it starts at 0xFF, and with each further
byte it is the remainder, in the polynomials over the field of two elements, that x^8 times the sum of the check and the byte,
bit 7 the highest power, leaves on division by x^8 + x^2 + x + 1; q is the quotient. -/
def Obligations.CompleteFrameRoundTrip : Prop :=
  (crc8 [] = 0xFF ∧ ∀ (l : List Byte) (b : Byte), ∃ q : Byte,
    let wide (x : Byte) : Word := x.zeroExtend 16
    wide (crc8 l ^^^ b) <<< 8
      = (wide q <<< 8 ^^^ wide q <<< 2 ^^^ wide q <<< 1 ^^^ wide q) ^^^ wide (crc8 (l ++ [b])))
  ∧ ∀ (tag : Byte) (status : Status) (level : Word),
    let code : Byte := match status with
      | .good => 0x01
      | .error => 0x02
      | .reject => 0x03
    let hi := level.extractLsb' 8 8
    let lo := level.extractLsb' 0 8
    completeFrame tag status level = ⟨0xA3, tag, code, hi, lo, crc8 [0xA3, tag, code, hi, lo]⟩
    ∧ examineFrame (completeFrame tag status level) = some (tag, status, level)
    ∧ ∀ f : RxFrame, examineFrame f = some (tag, status, level) → f = completeFrame tag status level

/-- Every record has 2 to 14 words, and its HDR says how many, of which type and of which origin (R131, R183). The words after
SEQ are those of Table 8.1 in its order, each with the layout of Tables 11.7 and 11.8. That the first word of a PACED CAUSE has
source 0 is the model's reading (log 14), and that every bit of a word to which the tables give no item reads zero is its choice
(log 24); no CAPTURE record carries a REJECT (R124). -/
def Obligations.RecordHeaderCountsItsWords : Prop :=
  (∀ r : Record, 2 ≤ r.words.length ∧ r.words.length ≤ 14
    ∧ ∃ (hdr : Word) (rest : List Word), r.words = hdr :: rest ∧ (hdr.extractLsb' 0 4).toNat = r.words.length
      ∧ hdr.extractLsb' 4 5 = 0
      ∧ match r with
        | .mark tag => rest = [tag] ∧ hdr.extractLsb' 13 3 = 6 ∧ hdr.extractLsb' 10 3 = 5 ∧ hdr.getLsbD 9 = false
        | .ofHead h restart seq gap body =>
          rest.head? = some seq ∧ (hdr.extractLsb' 10 3).toNat = h.val + 1 ∧ hdr.getLsbD 9 = restart
          ∧ match body with
            | .capture _ time span set cause result =>
              hdr.extractLsb' 13 3 = 1 ∧ r.words.length = 3 + (if gap.isSome then 1 else 0)
                + (if time.isSome then 2 else 0) + (if span.isSome then 2 else 0) + (if set.isSome then 2 else 0)
                + (if cause.isSome then 2 else 0) + (if result.isSome then 2 else 0)
            | .drop _ _ time => hdr.extractLsb' 13 3 = 2
                ∧ r.words.length = 3 + (if gap.isSome then 1 else 0) + (if time.isSome then 2 else 0)
            | .abort _ _ => hdr.extractLsb' 13 3 = 3 ∧ r.words.length = 3 + (if gap.isSome then 1 else 0)
            | .burstEnd _ _ _ _ => hdr.extractLsb' 13 3 = 4 ∧ r.words.length = 4 + (if gap.isSome then 1 else 0)
            | .fault _ _ _ => hdr.extractLsb' 13 3 = 5 ∧ r.words.length = 5 + (if gap.isSome then 1 else 0))
  ∧ ∀ (h : HeadIx) (restart : Bool) (seq : Word) (gap : Option Word),
    let after (body : Body) : List Word := (Record.ofHead h restart seq gap body).words.drop 2
    let two (x : Option Stamp) : List Word := x.toList.flatMap fun v => [v.extractLsb' 16 16, v.extractLsb' 0 16]
    let number (src : Source) : Nat := match src with
      | .line n => n.val
      | .soft => 8
      | .rate g => 9 + g.val
    (∀ (f : CaptureFlags) (time span : Option Stamp) (set : Option (SetIx × Byte × BitVec 12))
        (cause : Option (StartKind × Word)) (result : Option (Status × Word)),
      ∃ flags : Word, after (.capture f time span set cause result)
        = flags :: (gap.toList ++ two time ++ two span
          ++ (set.toList.flatMap fun x => [BitVec.ofNat 16 (256 * x.1.val + x.2.1.toNat), x.2.2.zeroExtend 16 &&& 0x03FF])
          ++ (cause.toList.flatMap fun x => [BitVec.ofNat 16 (match x.1 with
              | .triggered src => 0x1000 + number src
              | .latched src => 0x2000 + number src
              | .paced => 0x3000), x.2])
          ++ (result.toList.flatMap fun x => [match x.1 with
              | .good => 1
              | .error => 2
              | .reject => 3, x.2]))
      ∧ flags.getLsbD 0 = f.stretched ∧ flags.getLsbD 1 = f.dark ∧ flags.getLsbD 2 = f.late ∧ flags.getLsbD 3 = f.aborted
      ∧ flags.getLsbD 4 = f.overrun ∧ flags.getLsbD 5 = f.digerr ∧ flags.extractLsb' 6 10 = 0)
    ∧ (∀ (reason : DropReason) (src : Option Source) (time : Option Stamp),
      after (.drop reason src time) = BitVec.ofNat 16 ((match reason with
          | .early => 0
          | .latchFull => 0x1000
          | .strobeTimeout => 0x2000
          | .short => 0x3000) + (match src with
          | some x => number x
          | none => 15)) :: (gap.toList ++ two time))
    ∧ (∀ (discarded : BitVec 5) (fate : SlotFate),
      after (.abort discarded fate) = BitVec.ofNat 16 ((match fate with
          | .none => 0
          | .unqueued => 0x1000
          | .readoutContinues => 0x2000) + discarded.toNat) :: gap.toList)
    ∧ (∀ (reason : EndReason) (code : Option ValCode) (program : EntryIx) (next : Option EntryIx),
      after (.burstEnd reason code program next) = BitVec.ofNat 16 ((match reason with
          | .complete => 0
          | .stopped => 0x4000
          | .linkInvalid => 0x8000) + (match code with
          | none => 0
          | some .invalidEntry => 0x0100
          | some .noSource => 0x0200
          | some .widthSource => 0x0300
          | some .widthRepeat => 0x0400
          | some .range => 0x0500) + program.val)
        :: BitVec.ofNat 16 (match next with
          | some n => 0x8000 + n.val
          | none => 0) :: gap.toList)
    ∧ ∀ (code : FaultCode) (discarded : BitVec 5) (time : Stamp),
      after (.fault code discarded time) = BitVec.ofNat 16 ((match code with
          | .readoutTimeout => 0x1000
          | .rejected => 0x2000) + discarded.toNat)
        :: time.extractLsb' 16 16 :: time.extractLsb' 0 16 :: gap.toList

/-! ## Heads: commands -/

/-- START by Table 3.3: refused at the first failing check with nothing changed but the port; accepted, it loads the entry
and arms the head, and leaves the head's slot, ring, counters and record marks (R17, R37, R43). -/
def Obligations.StartFollowsItsChecks : Prop :=
  ∀ (u : Byte) (s : State), ∃ t : State, exec (.start u) s = .next t
    ∧ (3 < s.port.arg0.toNat → t.port.result &&& 0xF7FF = 0x9001 ∧ { t with port := s.port } = s)
    ∧ ∀ h : HeadIx, s.port.arg0.toNat = h.val →
      (31 < s.port.arg1.toNat → t.port.result &&& 0xF7FF = 0xA001 ∧ { t with port := s.port } = s)
      ∧ ∀ n : EntryIx, s.port.arg1.toNat = n.val →
        ((s.head h).state ≠ .idle → t.port.result &&& 0xF7FF = 0xB001 ∧ { t with port := s.port } = s)
        ∧ ((s.head h).state = .idle → ∀ code : ValCode, validate (s.entry n) = some code →
          t.port.result &&& 0xF7FF = 0b11000#5 ++ valCode (some code) ++ 0x01#8 ∧ { t with port := s.port } = s)
        ∧ ((s.head h).state = .idle → validate (s.entry n) = none →
          t.port.result &&& 0xF7FF = 0x0001
          ∧ t.head h = { s.head h with
              state := .armed
              timers := HeadTimers.stopped
              ctx := {
                progIndex := n
                prog := (s.entry n).prog
                groupsDone := 0
                exposuresDone := 0
                group := none
                pendingStart := none
                startLine := none
                spacing := .stopped
                latch := none
                stopPending := false } }
          ∧ (∀ k : HeadIx, k ≠ h → t.head k = s.head k) ∧ { t with heads := s.heads, port := s.port } = s)

/-- STOP: no effect on a head that runs no burst; stop-pending with a group open; else the burst ends at once with an END
STOPPED record, without drops, in IDLE with DONE or in DRAINING, and a pending APPLY commits (R93, R152, R153, R154). A head
with no group open holds no channel (R98), which is the clause's premise. -/
def Obligations.StopEndsOrMarksTheBurst : Prop :=
  ∀ (u : Byte) (s : State), ∃ t : State, exec (.stop u) s = .next t
    ∧ (3 < s.port.arg0.toNat → t.port.result &&& 0xF7FF = 0x9002 ∧ { t with port := s.port } = s)
    ∧ ∀ h : HeadIx, s.port.arg0.toNat = h.val → t.port.result &&& 0xF7FF = 0x0002
      ∧ ((s.head h).state.running = false → { t with port := s.port } = s)
      ∧ ((s.head h).state.running = true → (s.head h).ctx.group.isSome = true →
          t.head h = { s.head h with ctx := { (s.head h).ctx with stopPending := true } }
          ∧ (∀ k : HeadIx, k ≠ h → t.head k = s.head k) ∧ { t with heads := s.heads, port := s.port } = s)
      ∧ ((s.head h).state.running = true → (s.head h).ctx.group = none →
          (∀ n : ChanIx, (s.chan n).holder ≠ some h) →
          let o := offer h (.burstEnd .stopped none (s.head h).ctx.progIndex none) s
          t.head h = { o.head h with
            state := if (s.head h).slot = .empty then .idle else .draining
            ctx := { Context.cleared with progIndex := (s.head h).ctx.progIndex, prog := (s.head h).ctx.prog }
            timers := HeadTimers.stopped
            ring := if (s.head h).ring.applyPending
              then { (s.head h).ring with live := (s.head h).ring.staged, pointer := 0, applyPending := false }
              else (s.head h).ring }
          ∧ (∀ k : HeadIx, k ≠ h → t.head k = s.head k)
          ∧ (∀ n : ChanIx, t.chan n = { s.chan n with waiters := (s.chan n).waiters.filter fun w => decide (w ≠ h) })
          ∧ t.queue = o.queue
          ∧ t.irq = (if (s.head h).slot = .empty then o.irq.raise (doneBit h) else o.irq)
          ∧ { t with heads := s.heads, chans := s.chans, queue := s.queue, irq := s.irq, port := s.port } = s)

/-- ABORT: no effect in OFF, IDLE and FAULT; else the teardown, the slot's fate, one ABORT record with the exposures
discarded (Table 9.1), and IDLE with DONE or DRAINING (R93, R135, R151, R156). The teardown: the head's channel is released,
the head leaves its waiter list, its timers stop, and its context is cleared but for the program index and copy, an open group
and a latched trigger with the rest; slot, ring and counters stay (R150). That the head does not wait at a channel it holds
is the last clause's premise (R98). -/
def Obligations.AbortTearsTheHeadDown : Prop :=
  (∀ (h : HeadIx) (s : State),
    let d := teardown h s
    let ctx : Context := {
      progIndex := (s.head h).ctx.progIndex
      prog := (s.head h).ctx.prog
      groupsDone := 0
      exposuresDone := 0
      group := none
      pendingStart := none
      startLine := none
      spacing := .stopped
      latch := none
      stopPending := false }
    (d.head h).ctx = ctx ∧ (d.head h).timers = ⟨none, none, none, none, none, .none⟩
    ∧ (∀ k : HeadIx, k ≠ h → d.head k = (releaseStrobe h s).head k)
    ∧ (∀ n : ChanIx, d.chan n = { (releaseStrobe h s).chan n with
        waiters := ((releaseStrobe h s).chan n).waiters.filter fun w => decide (w ≠ h) })
    ∧ { d with heads := s.heads, chans := s.chans } = s
    ∧ ((∀ n : ChanIx, (s.chan n).holder = some h → h ∉ (s.chan n).waiters) →
        d.head h = { s.head h with ctx := ctx, timers := ⟨none, none, none, none, none, .none⟩ }))
  ∧ ∀ (u : Byte) (s : State), ∃ t : State, exec (.abort u) s = .next t
    ∧ (3 < s.port.arg0.toNat → t.port.result &&& 0xF7FF = 0x9003 ∧ { t with port := s.port } = s)
    ∧ ∀ h : HeadIx, s.port.arg0.toNat = h.val → t.port.result &&& 0xF7FF = 0x0003
      ∧ ((s.head h).state = .off ∨ (s.head h).state = .idle ∨ (s.head h).state = .fault → { t with port := s.port } = s)
      ∧ ((s.head h).state ≠ .off → (s.head h).state ≠ .idle → (s.head h).state ≠ .fault →
          let fate : SlotFate := match (s.head h).slot with
            | .empty => .none
            | .queued _ => .unqueued
            | .active _ => .readoutContinues
          let discarded : BitVec 5 := if (s.head h).ctx.group = none then 0
            else if (s.head h).state = .exposing ∨ (s.head h).state = .extending
              then (s.head h).ctx.exposuresDone.zeroExtend 5 + 1
              else (s.head h).ctx.exposuresDone.zeroExtend 5
          let d := teardown h s
          let o := offer h (.abort discarded fate) d
          t.head h = { o.head h with
            state := if fate = .readoutContinues then .draining else .idle
            slot := match (s.head h).slot with
              | .active g => .active { g with aborted := true }
              | .empty | .queued _ => .empty
            ring := if (d.head h).ring.applyPending
              then { (d.head h).ring with live := (d.head h).ring.staged, pointer := 0, applyPending := false }
              else (d.head h).ring }
          ∧ (∀ k : HeadIx, k ≠ h → t.head k = d.head k)
          ∧ (∀ n : ChanIx, t.chan n = d.chan n)
          ∧ t.arb = (match (s.head h).slot with
            | .queued _ => { s.arb with queue := s.arb.queue.filter fun k => decide (k ≠ h) }
            | .empty | .active _ => s.arb)
          ∧ t.queue = o.queue
          ∧ t.irq = (if fate = .readoutContinues then o.irq else o.irq.raise (doneBit h))
          ∧ { t with heads := s.heads, chans := s.chans, arb := s.arb, queue := s.queue, irq := s.irq,
                     port := s.port } = s)

/-- CLEAR takes FAULT to IDLE, and HEAD_RESET returns a head to its reset state in any state: QUEUED requests removed, an
ACTIVE readout cancelled with a CANCEL, context, counters and ring marks cleared, no record and no cause (R129, R161, R162).
The other heads and the channels are as the release of the head's channel and its leaving of a waiter list make them. The live
ring is kept; the clause's premise is that the head does not wait at a channel it holds (R98). The model's choice (log 4): the
grant that R129 lets follow the IDLE port is the later command GRANT, so none is made here. -/
def Obligations.ClearAndHeadReset : Prop :=
  (∀ (u : Byte) (s : State), ∃ t : State, exec (.clear u) s = .next t
    ∧ (3 < s.port.arg0.toNat → t.port.result &&& 0xF7FF = 0x9004 ∧ { t with port := s.port } = s)
    ∧ ∀ h : HeadIx, s.port.arg0.toNat = h.val →
      ((s.head h).state ≠ .fault → t.port.result &&& 0xF7FF = 0xB004 ∧ { t with port := s.port } = s)
      ∧ ((s.head h).state = .fault → t.port.result &&& 0xF7FF = 0x0004
        ∧ t.head h = { s.head h with state := .idle }
        ∧ (∀ k : HeadIx, k ≠ h → t.head k = s.head k) ∧ { t with heads := s.heads, port := s.port } = s))
  ∧ ∀ (u : Byte) (s : State), ∃ t : State, exec (.headReset u) s = .next t
    ∧ (3 < s.port.arg0.toNat → t.port.result &&& 0xF7FF = 0x9005 ∧ { t with port := s.port } = s)
    ∧ ∀ h : HeadIx, s.port.arg0.toNat = h.val → t.port.result &&& 0xF7FF = 0x0005
      ∧ { t with port := s.port } = headReset h s
      ∧ t.head h = { s.head h with
          state := if (s.head h).enabled then .idle else .off
          ctx := Context.cleared
          timers := HeadTimers.stopped
          slot := .empty
          ring := (t.head h).ring
          drops := 0, seq := 0, lost := 0, restart := true }
      ∧ (t.head h).ring.pointer = 0 ∧ (t.head h).ring.applyPending = false ∧ (t.head h).ring.withdrawn = false
      ∧ (t.head h).ring.staged = (s.head h).ring.staged
      ∧ ((∀ n : ChanIx, (s.chan n).holder = some h → h ∉ (s.chan n).waiters) →
          (t.head h).ring.live = (s.head h).ring.live)
      ∧ (∀ k : HeadIx, k ≠ h → t.head k = (releaseStrobe h s).head k)
      ∧ (∀ n : ChanIx, t.chan n = (leaveWaiters h (releaseStrobe h s)).chan n)
      ∧ ((s.head h).slot = .empty → t.arb = s.arb ∧ t.link = s.link)
      ∧ (∀ g : Completed, (s.head h).slot = .queued g →
          t.arb = { s.arb with queue := s.arb.queue.filter fun k => decide (k ≠ h) } ∧ t.link = s.link)
      ∧ (∀ (g : Completed) (tag : Byte) (n : Nat), (s.head h).slot = .active g → s.arb.port = .busy h tag n →
          t.arb = { s.arb with port := .idle } ∧ t.link = s.link.pass (.cancel tag))
      ∧ { t with heads := s.heads, chans := s.chans, arb := s.arb, link := s.link, port := s.port } = s

/-- HEAD_EN: setting the mark of a head in OFF takes it into IDLE with a cleared context and an EMPTY slot; clearing the
mark of an enabled head carries out the HEAD_RESET actions and leaves it in OFF; a mark left as it was has no effect. The
rows act by setHeadEnable, by which RegisterWriteActsAsTheRow says a word of several marks. A write to HEAD_DROPn clears the
drop counter (R36, R49, R163). The model's choice (log 4): a grant that a disabling lets follow is the later command GRANT. -/
def Obligations.HeadEnableDisableAndDropClear : Prop :=
  ∀ (h : HeadIx) (s : State),
    (∃ t : State, exec (.headEnable h) s = .next t
      ∧ { t with port := s.port } = setHeadEnable h true s
      ∧ ((s.head h).enabled = true → { t with port := s.port } = s)
      ∧ ((s.head h).enabled = false →
        t.head h = { s.head h with
          enabled := true, state := .idle, ctx := Context.cleared, timers := HeadTimers.stopped, slot := .empty }
        ∧ (∀ k : HeadIx, k ≠ h → t.head k = s.head k) ∧ { t with heads := s.heads, port := s.port } = s))
    ∧ (∃ t : State, exec (.headDisable h) s = .next t
      ∧ { t with port := s.port } = setHeadEnable h false s
      ∧ ((s.head h).enabled = false → { t with port := s.port } = s)
      ∧ ((s.head h).enabled = true →
        t.head h = { (headReset h s).head h with enabled := false, state := .off }
        ∧ (∀ k : HeadIx, k ≠ h → t.head k = (headReset h s).head k)
        ∧ { t with heads := (headReset h s).heads, port := s.port } = headReset h s))
    ∧ ∃ t : State, exec (.headDropClear h) s = .next t
      ∧ regRead t (0x2C#7 + BitVec.ofNat 7 h.val) = 0
      ∧ t.head h = { s.head h with drops := 0 }
      ∧ (∀ k : HeadIx, k ≠ h → t.head k = s.head k) ∧ { t with heads := s.heads, port := s.port } = s

/-! ## Bracket rings -/

/-- APPLY: refused with BAD_HEAD or BAD_SET, nothing changes; accepted, it commits at once at a head that runs no burst
and is pending at one that does, and it clears the withdrawn indication (R88, R89, R90). -/
def Obligations.ApplyChecksAndCommits : Prop :=
  ∀ (u : Byte) (s : State), ∃ t : State, exec (.apply u) s = .next t
    ∧ (3 < s.port.arg0.toNat → t.port.result &&& 0xF7FF = 0x9007 ∧ { t with port := s.port } = s)
    ∧ ∀ h : HeadIx, s.port.arg0.toNat = h.val →
      let r := (s.head h).ring
      let passes := 1 ≤ r.staged.length.toNat ∧ r.staged.length.toNat ≤ 8
        ∧ ∀ i : SetIx, i.val < r.staged.length.toNat →
          (r.staged.sets[i.val]'i.isLt).integration ≠ 0 ∧ (r.staged.sets[i.val]'i.isLt).gain.toNat ≤ 1023
      (¬ passes → t.port.result &&& 0xF7FF = 0xD007 ∧ { t with port := s.port } = s)
      ∧ (passes → t.port.result &&& 0xF7FF = 0x0007
        ∧ t.head h = { s.head h with ring :=
            if (s.head h).state.running then { r with applyPending := true, withdrawn := false }
            else { r with live := r.staged, pointer := 0, applyPending := false, withdrawn := false } }
        ∧ (∀ k : HeadIx, k ≠ h → t.head k = s.head k) ∧ { t with heads := s.heads, port := s.port } = s)

/-- A RING_DATA word: a staged write stores the code in its width at the selected position and no other, and withdraws a
pending APPLY; a live write changes no ring; a read returns the code, and for the live length word the pointer and the
APPLY-pending mark; each advances the word position, 32 to 0 (R86, R87, R91). Position 4s + w is word w of set s, in the order
Integration's lower sixteen bits, its upper eight, Gain, Tag, and position 32 the length (R86). The model's choices: whatever was open before the
row, a transaction of its direction at RING_DATA is open after it (log 5), and the word read stands on SDO (log 6). -/
def Obligations.RingDataTransfers : Prop :=
  (∀ (r : Ring) (pos : Fin 33) (w : Word),
    (r.put pos w).code pos = w &&& (if pos = 32 then 0x000F else if pos.val % 4 = 0 then 0xFFFF
      else if pos.val % 4 = 2 then 0x0FFF else 0x00FF)
    ∧ ∀ q : Fin 33, q ≠ pos → (r.put pos w).code q = r.code q)
  ∧ (∀ (r : Ring) (i : SetIx),
    let x := r.sets[i.val]'i.isLt
    r.code (Fin.ofNat 33 (4 * i.val)) = x.integration.extractLsb' 0 16
    ∧ r.code (Fin.ofNat 33 (4 * i.val + 1)) = 0#8 ++ x.integration.extractLsb' 16 8
    ∧ r.code (Fin.ofNat 33 (4 * i.val + 2)) = 0#4 ++ x.gain
    ∧ r.code (Fin.ofNat 33 (4 * i.val + 3)) = 0#8 ++ x.tag
    ∧ r.code 32 = 0#12 ++ r.length)
  ∧ ∀ s : State,
    let sel := s.port.ringSel
    let after : RingSel := { sel with pos := if sel.pos = 32 then 0 else sel.pos + 1 }
    let r := (s.head sel.head).ring
    (∀ w : Word, ∃ t : State, exec (.ringDataWrite w) s = .next t
      ∧ t.port = { s.port with ringSel := after, transaction := some ⟨false, 0x21⟩, sdo := none }
      ∧ (sel.live = true → { t with port := s.port } = s)
      ∧ (sel.live = false →
        t.head sel.head = { s.head sel.head with ring := { r with
          staged := r.staged.put sel.pos w, applyPending := false, withdrawn := r.withdrawn || r.applyPending } }
        ∧ (∀ k : HeadIx, k ≠ sel.head → t.head k = s.head k) ∧ { t with heads := s.heads, port := s.port } = s))
    ∧ exec .ringDataRead s = .next { s with
        port := { s.port with
          ringSel := after
          transaction := some ⟨true, 0x21⟩
          sdo := some (if sel.live = false then r.staged.code sel.pos
            else if sel.pos = 32 then
              (if r.applyPending then 0x8000 else 0) + BitVec.ofNat 16 (256 * r.pointer.val) + r.live.length.zeroExtend 16
            else r.live.code sel.pos) } }

/-! ## Record queue -/

/-- R138. -/
def Obligations.MarkAppendsOrIsRefused : Prop :=
  ∀ (u : Byte) (s : State), ∃ t : State, exec (.mark u) s = .next t
    ∧ (2 ≤ 512 - s.queue.occupancy →
        t.queue = { s.queue with records := s.queue.records ++ [.mark s.port.arg0] }
        ∧ (∃ hdr : Word, (Record.mark s.port.arg0).words = [hdr, s.port.arg0]
          ∧ hdr.extractLsb' 13 3 = 6 ∧ hdr.extractLsb' 10 3 = 5 ∧ hdr.getLsbD 9 = false ∧ hdr.extractLsb' 0 4 = 2)
        ∧ t.port.result &&& 0xF7FF = 0x0008 ∧ { t with queue := s.queue, port := s.port } = s)
    ∧ (512 - s.queue.occupancy < 2 → t.port.result &&& 0xF7FF = 0xE008 ∧ { t with port := s.port } = s)

/-- R146. -/
def Obligations.DiscardDropsTheOldestRecord : Prop :=
  ∀ (u : Byte) (s : State), ∃ t : State, exec (.discard u) s = .next t
    ∧ t.port.result &&& 0xF7FF = 0x0009 ∧ { t with queue := s.queue, port := s.port } = s
    ∧ (s.queue.records = [] → { t with port := s.port } = s)
    ∧ ∀ (r : Record) (rs : List Record), s.queue.records = r :: rs →
        t.queue = { s.queue with records := rs, readPos := 0 }
        ∧ (s.queue.readPos < r.words.length →
          t.queue.occupancy = s.queue.occupancy - (r.words.length - s.queue.readPos))

/-- A Q_PORT word is the word at the read position and leaves the queue, the record with its last word; in an empty queue it
is the empty word and changes nothing (R144, R145). -/
def Obligations.QueueReadTakesOneWord : Prop :=
  ∀ s : State, ∃ t : State, exec .queueRead s = .next t
    ∧ { t with queue := s.queue, port := s.port } = s
    ∧ (s.queue.records = [] → t.port.sdo = some 0x0000 ∧ { t with port := s.port } = s)
    ∧ ∀ (r : Record) (rs : List Record), s.queue.records = r :: rs → s.queue.readPos < r.words.length →
        t.port.sdo = r.words[s.queue.readPos]?
        ∧ t.queue.occupancy = s.queue.occupancy - 1
        ∧ (s.queue.readPos + 1 < r.words.length → t.queue = { s.queue with readPos := s.queue.readPos + 1 })
        ∧ (s.queue.readPos + 1 = r.words.length → t.queue = { s.queue with records := rs, readPos := 0 })

/-- The offering of a record: it takes the head's next sequence number, carries RESTART and GAP as the marks stand, and is
appended whole when it fits, clearing lost count and RESTART; else it is lost, counted, and LOST is raised (R131, R139 to
R142). A drop: the drop counter moves, DROP is raised, and under Drop Notices ON a DROP record is offered, with the drop's time
when the mask contains TIME (R48, R134). -/
def Obligations.RecordsAndDropsAreAccounted : Prop :=
  (∀ (h : HeadIx) (body : Body) (s : State),
    let hd := s.head h
    let r : Record := .ofHead h hd.restart hd.seq (if hd.lost = 0 then none else some hd.lost) body
    (s.queue.occupancy + r.words.length ≤ 512 →
      offer h body s = { s.setHead h { hd with seq := hd.seq + 1, lost := 0, restart := false } with
        queue := { s.queue with records := s.queue.records ++ [r] } })
    ∧ (512 < s.queue.occupancy + r.words.length →
      offer h body s = { s.setHead h { hd with
          seq := hd.seq + 1, lost := if hd.lost = 65535 then 65535 else hd.lost + 1 } with
        irq := { s.irq with flags := s.irq.flags ||| 0x0002 } }))
  ∧ ∀ (h : HeadIx) (reason : DropReason) (src : Option Source) (time : Stamp) (s : State),
    let hd := s.head h
    let counted : State := { s.setHead h { hd with drops := if hd.drops = 65535 then 65535 else hd.drops + 1 } with
      irq := { s.irq with flags := s.irq.flags ||| 0x0004 } }
    dropTrigger h reason src time s =
      if hd.ctx.prog.dropNotices then
        offer h (.drop reason src (if hd.ctx.prog.fields.getLsbD 0 then some time else none)) counted
      else counted

/-! ## Trigger events -/

/-- An event is offered to each head that it reaches, one after the other in some order: a line's assert at FILTER_EXPIRY
and LINE_LEVEL_CHANGE with Filter 0, its release likewise, SOFT to the masked heads, a generator's assert at its expiry; a
line's event moves its qualified level (R19, R21, R28, R31 to R34). Between two heads' turns at a release a grant that has come
due is taken or waits, so that both orders of R117 come about (log 3, 4). -/
def Obligations.EventGoesToEveryReachedHead : Prop :=
  (allHeads.Nodup ∧ ∀ h : HeadIx, h ∈ allHeads)
  ∧ (∀ (act : HeadIx → State → State) (h k : HeadIx) (rest : List HeadIx) (s : State),
    inTurn act [] s = s ∧ inTurn act [h] s = act h s
    ∧ ((act h s).grantDue = false → inTurn act (h :: k :: rest) s = inTurn act (k :: rest) (act h s))
    ∧ ((act h s).grantDue = true →
      let u : State := { act h s with choices := (act h s).choices + 1 }
      inTurn act (h :: k :: rest) s = inTurn act (k :: rest) u
      ∨ exec .grant u = .next (tryGrant u) ∧ inTurn act (h :: k :: rest) s = inTurn act (k :: rest) (tryGrant u)))
  ∧ (∀ (n : LineIx) (high : Bool) (s u : State) (c : Instr),
    (∃ q : Qualifier, (s.line n).qualifier = some q ∧
      ((c = .filterExpiry n ∧ q.candidate = some ⟨high, 0⟩
          ∧ u = s.setLine n { s.line n with qualifier := some ⟨high, none⟩ })
        ∨ (c = .lineLevelChange n high ∧ s.pin n ≠ high ∧ q.high ≠ high ∧ (s.line n).filter = 0
          ∧ u = { s with tin := s.tin.set n.val high n.isLt }.setLine n
            { s.line n with qualifier := some ⟨high, none⟩ }))) →
    (high ≠ (s.line n).activeLow → ∃ (order : List HeadIx) (k : Nat),
      order.Perm (allHeads.filter fun h => (u.head h).assertReaches (.line n))
      ∧ exec c s = .next (order.foldl (fun a h => receiveAssert (.line n) s.now h a) { u with choices := k }))
    ∧ (high = (s.line n).activeLow → ∃ (order : List HeadIx) (k : Nat),
      order.Perm (allHeads.filter fun h => (u.head h).releaseReaches n)
      ∧ exec c s = .next (inTurn (receiveRelease n) order { u with choices := k })))
  ∧ (∀ (u : Byte) (s : State), ∃ (t : State) (order : List HeadIx) (k : Nat),
      exec (.softTrigger u) s = .next t ∧ t.port.result &&& 0xF7FF = 0x0006
      ∧ order.Perm (allHeads.filter fun h => s.port.arg0.getLsbD h.val && (s.head h).assertReaches .soft)
      ∧ { t with port := s.port } = order.foldl (fun a h => receiveAssert .soft s.now h a) { s with choices := k })
  ∧ ∀ (g : RateIx) (s : State) (count : Byte), (s.rate g).run = some ⟨0, count⟩ →
      (s.rate g).decimation.toNat + 1 ≤ count.toNat + 1 →
      let u := s.setRate g { s.rate g with run := some ⟨max 2 (s.rate g).period.toNat, 0⟩ }
      ∃ (order : List HeadIx) (k : Nat),
        order.Perm (allHeads.filter fun h => (s.head h).assertReaches (.rate g))
        ∧ exec (.ratePeriodExpiry g) s
          = .next (order.foldl (fun a h => receiveAssert (.rate g) s.now h a) { u with choices := k })

/-- What an assert does at a head, by the head's state and next start: Table 3.4 and R73, with R32's test, by which a running
head (R35) is reached by a source of its program (R40, R44, R46, R72, R73). An acceptance makes the pending start, names the event's line as the starting source under WIDTH and none under
TIMED, empties the latch, and times the Delay or makes the attempt (R40, R44, R75). -/
def Obligations.AssertOutcomeByState : Prop :=
  ∀ (src : Source) (time : Stamp) (h : HeadIx) (s : State),
    let hd := s.head h
    let reaches := hd.state ∈ [.armed, .pacing, .delay, .strobeWait, .exposing, .extending, .blocked]
      ∧ hd.ctx.prog.sources.getLsbD (match src with
      | .line n => n.val
      | .soft => 8
      | .rate g => 9 + g.val) = true
    let starting : Option LineIx := match hd.ctx.prog.length, src with
      | .width, .line n => some n
      | .width, .soft | .width, .rate _ | .timed, _ => none
    let startsWith (p : PendingStart) : Head :=
      { hd with ctx := { hd.ctx with pendingStart := some p, startLine := starting, latch := none } }
    let accepted := startsWith ⟨.triggered src, time, 0⟩
    (hd.state.running = true ↔ hd.state ∈ [.armed, .pacing, .delay, .strobeWait, .exposing, .extending, .blocked])
    ∧ (hd.assertReaches src = true ↔ reaches)
    ∧ (∀ p : PendingStart,
      (hd.ctx.prog.delay ≠ 0 → acceptStart h p src s = s.setHead h { startsWith p with
        state := .delay, timers := { HeadTimers.stopped with delay := some hd.ctx.prog.delay.toNat } })
      ∧ (hd.ctx.prog.delay = 0 → acceptStart h p src s = attemptStart h (s.setHead h (startsWith p))))
    ∧ (¬ reaches → receiveAssert src time h s = s)
    ∧ (reaches → hd.state = .armed → hd.ctx.prog.delay ≠ 0 →
        receiveAssert src time h s = s.setHead h { accepted with
          state := .delay, timers := { HeadTimers.stopped with delay := some hd.ctx.prog.delay.toNat } })
    ∧ (reaches → hd.state = .armed → hd.ctx.prog.delay = 0 →
        receiveAssert src time h s = attemptStart h (s.setHead h accepted))
    ∧ (reaches → hd.state ∈ [.delay, .strobeWait, .exposing, .extending, .pacing] →
        receiveAssert src time h s = dropTrigger h .early (some src) time s)
    ∧ (reaches → hd.state = .blocked → (hd.ctx.prog.repetition = .trigger ∨ hd.ctx.spacing = .stopped) →
        (hd.ctx.latch = none → receiveAssert src time h s
          = s.setHead h { hd with ctx := { hd.ctx with latch := some ⟨src, time, 0⟩ } })
        ∧ (hd.ctx.latch ≠ none → receiveAssert src time h s = dropTrigger h .latchFull (some src) time s))
    ∧ (reaches → hd.state = .blocked → hd.ctx.prog.repetition = .timer → hd.ctx.spacing ≠ .stopped →
        receiveAssert src time h s = dropTrigger h .early (some src) time s)

/-- What a release does at a head: it reaches only a WIDTH head whose starting source the line is; in DELAY and STROBE_WAIT
the pending start is dropped SHORT with its own arrival time and the head is ARMED; in EXPOSING the end condition of the
exposure is reached without OVERRUN, whose whole effect at every EXPOSING head is ExposureEndCondition's (R33, R47, R55). -/
def Obligations.ReleaseOutcomeByState : Prop :=
  ∀ (n : LineIx) (h : HeadIx) (s : State),
    let hd := s.head h
    let reaches := hd.state.running = true ∧ hd.ctx.prog.length = .width ∧ hd.ctx.startLine = some n
    (hd.releaseReaches n = true ↔ reaches)
    ∧ (¬ reaches → receiveRelease n h s = s)
    ∧ (∀ p : PendingStart, reaches → (hd.state = .delay ∨ hd.state = .strobeWait) → hd.ctx.pendingStart = some p →
        receiveRelease n h s = dropTrigger h .short (some (.line n)) p.arrival
          ((leaveWaiters h s).setHead h { hd with
            state := .armed
            ctx := { hd.ctx with pendingStart := none, startLine := none }
            timers := HeadTimers.stopped }))
    ∧ (reaches → hd.state = .exposing → receiveRelease n h s = endCondition h false s)
    ∧ (reaches → hd.state ∈ [.armed, .pacing, .extending, .blocked] → receiveRelease n h s = s)

/-! ## Trigger lines and rate generators -/

/-- LINE_CFG: Table 2.2. The line after the write, and that no event comes of it unless the line stood active; a line that
stood active delivers its release to every head the release reaches, one after the other, in turns that
EventGoesToEveryReachedHead describes (R22, R23, R24; log 3, 4). -/
def Obligations.LineConfigurationWrites : Prop :=
  ∀ (n : LineIx) (low : Bool) (f : Byte) (s : State),
    let l := s.line n
    let fresh : Line := ⟨low, f, some ⟨s.pin n, none⟩⟩
    let off : Line := ⟨low, f, none⟩
    let quiet (c : Instr) (l' : Line) : Prop := ∃ t : State, exec c s = .next t
      ∧ t.line n = l' ∧ (∀ k : LineIx, k ≠ n → t.line k = s.line k) ∧ { t with lines := s.lines, port := s.port } = s
    let released (c : Instr) (l' : Line) : Prop := ∃ (t : State) (order : List HeadIx) (k : Nat), exec c s = .next t
      ∧ order.Perm (allHeads.filter fun h => (s.head h).releaseReaches n)
      ∧ { t with port := s.port } = inTurn (receiveRelease n) order { s.setLine n l' with choices := k }
    (l.qualifier = none → quiet (.lineEnable n low f) fresh)
    ∧ (l.qualifier = none → quiet (.lineDisable n low f) off ∧ quiet (.lineReconfigure n low f) off)
    ∧ ∀ q : Qualifier, l.qualifier = some q →
      (q.high = l.activeLow → quiet (.lineDisable n low f) off)
      ∧ (q.high ≠ l.activeLow → released (.lineDisable n low f) off)
      ∧ (low = l.activeLow → quiet (.lineReconfigure n low f) ⟨low, f, some q⟩ ∧ quiet (.lineEnable n low f) ⟨low, f, some q⟩)
      ∧ (low ≠ l.activeLow → q.high = l.activeLow →
          quiet (.lineReconfigure n low f) fresh ∧ quiet (.lineEnable n low f) fresh)
      ∧ (low ≠ l.activeLow → q.high ≠ l.activeLow →
          released (.lineReconfigure n low f) fresh ∧ released (.lineEnable n low f) fresh)

/-- A sampled level that qualifies nothing: no change when the pin does not change; a disabled line keeps its pin's level
alone; a departure under a Filter above 0 begins a candidate edge with a fresh timer, and a return ends it. A filter timer that
is not due does not expire (R20, R21; log 2). -/
def Obligations.LineSamplingWithoutEvent : Prop :=
  ∀ (n : LineIx) (high : Bool) (s : State),
    let sampled (l : Line) : State := { s with tin := s.tin.set n.val high n.isLt }.setLine n l
    (s.pin n = high → exec (.lineLevelChange n high) s = .next s)
    ∧ (s.pin n ≠ high → (s.line n).qualifier = none →
        exec (.lineLevelChange n high) s = .next { s with tin := s.tin.set n.val high n.isLt })
    ∧ (∀ q : Qualifier, s.pin n ≠ high → (s.line n).qualifier = some q →
        (q.high = high → exec (.lineLevelChange n high) s
          = .next (sampled { s.line n with qualifier := some ⟨q.high, none⟩ }))
        ∧ (q.high ≠ high → (s.line n).filter ≠ 0 → exec (.lineLevelChange n high) s
          = .next (sampled { s.line n with qualifier := some ⟨q.high, some ⟨high, (s.line n).filter.toNat⟩⟩ })))
    ∧ ((∀ (q : Qualifier) (c : Candidate), (s.line n).qualifier = some q → q.candidate = some c → c.left ≠ 0) →
        exec (.filterExpiry n) s = .next s)

/-- RATEn_CTL and RATEn_P_HI: enabling starts a fresh period with count 0, a period of 0 or 1 counted as 2; disabling stops
it; an enable left as it was stores the code alone; a P_HI write makes the 24 bits the written period and leaves the running
one. A period expiry below N counts; a period not due does not expire (R27 to R30; log 2). -/
def Obligations.RateGeneratorRegisters : Prop :=
  ∀ (g : RateIx) (code : Byte) (s : State),
    let r := s.rate g
    let becomes (c : Instr) (r' : RateGen) : Prop := ∃ t : State, exec c s = .next t
      ∧ t.rate g = r' ∧ (∀ k : RateIx, k ≠ g → t.rate k = s.rate k) ∧ { t with rates := s.rates, port := s.port } = s
    (r.run = none → becomes (.rateEnable g code)
      { r with decimation := code, run := some ⟨if r.period.toNat ≤ 1 then 2 else r.period.toNat, 0⟩ })
    ∧ (r.run.isSome = true → becomes (.rateEnable g code) { r with decimation := code })
    ∧ becomes (.rateDisable g code) { r with decimation := code, run := none }
    ∧ becomes (.rateDecimation g code) { r with decimation := code }
    ∧ becomes (.ratePeriodWrite g code) { r with periodHi := code, period := code ++ r.periodLo }
    ∧ (∀ count : Byte, r.run = some ⟨0, count⟩ → count.toNat + 1 < r.decimation.toNat + 1 →
        becomes (.ratePeriodExpiry g)
          { r with run := some ⟨if r.period.toNat ≤ 1 then 2 else r.period.toNat, count + 1⟩ })
    ∧ ((∀ k : RateRun, r.run = some k → k.left ≠ 0) → exec (.ratePeriodExpiry g) s = .next s)

/-! ## Exposures -/

/-- A start attempt for the pending start, at DELAY_EXPIRY and wherever a head makes one, is decided by the program's Strobe
and Policy and by the channel: Table 6.2 (R45, R50, R99, R102). A delay that is not due does not expire (log 2). -/
def Obligations.DelayExpiryMakesTheAttempt : Prop :=
  ∀ (h : HeadIx) (s : State),
    let hd := s.head h
    (∀ p : PendingStart, hd.ctx.pendingStart = some p →
      let unlocked : State := s.setHead h (hd.startExposure s.now p false)
      (hd.ctx.prog.strobe = 0 → attemptStart h s = unlocked)
      ∧ ∀ n : ChanIx, hd.ctx.prog.strobe.toNat = n.val + 1 →
        ((s.chan n).enabled = false → attemptStart h s = unlocked)
        ∧ ((s.chan n).enabled = true → (s.chan n).holder = none → attemptStart h s
          = (s.setHead h (hd.startExposure s.now p true)).setChan n { s.chan n with holder := some h })
        ∧ ((s.chan n).enabled = true → (s.chan n).holder ≠ none → hd.ctx.prog.policy = .dark →
          attemptStart h s = unlocked)
        ∧ ((s.chan n).enabled = true → (s.chan n).holder ≠ none → hd.ctx.prog.policy = .wait →
          attemptStart h s = (s.setHead h { hd with
              state := .strobeWait
              timers := { HeadTimers.stopped with strobeWait := some hd.ctx.prog.strobeWait.toNat } }).setChan n
            { s.chan n with waiters := (s.chan n).waiters ++ [h] }))
    ∧ (hd.state = .delay → hd.timers.delay = some 0 → exec (.delayExpiry h) s
        = .next (attemptStart h (s.setHead h { hd with timers := { hd.timers with delay := none } })))
    ∧ (hd.state ≠ .delay ∨ hd.timers.delay ≠ some 0 → exec (.delayExpiry h) s = .next s)

/-- An exposure start: EXPOSING, the pending start ended, the timers started, the spacing timer restarted under TIMER, LATE
and DARK as the start gives them; with no group open the group opens on the set at the pointer of the live ring, after the
commit of a pending APPLY, and the pointer advances modulo the live length; with a group open set, timestamp and cause stay
(R39, R51, R52, R59, R92). -/
def Obligations.ExposureStartOpensTheGroup : Prop :=
  (∀ (h : HeadIx) (s : State) (p : PendingStart) (locked : Bool), (s.head h).ctx.pendingStart = some p →
    startExposure h locked s = s.setHead h ((s.head h).startExposure s.now p locked))
  ∧ ∀ (hd : Head) (now : Stamp) (p : PendingStart) (locked : Bool),
    let prog := hd.ctx.prog
    let t := hd.startExposure now p locked
    let late : Prop := p.kind = .paced ∧ ∃ (n : Word) (at' : Stamp), hd.ctx.spacing = .expired n at' ∧ n ≠ 0
    let dark : Prop := (1 ≤ prog.strobe.toNat ∧ prog.strobe.toNat ≤ 4) ∧ locked = false
    t.state = .exposing ∧ t.ctx.pendingStart = none ∧ t.ctx.startLine = hd.ctx.startLine
    ∧ t.ctx.spacing = (match prog.repetition with
        | .timer => .running prog.spacing.toNat
        | .trigger => hd.ctx.spacing)
    ∧ t.timers.exposure = some 0 ∧ t.timers.delay = none ∧ t.timers.strobeWait = none ∧ t.timers.retry = .none
    ∧ (prog.length = .width → t.timers.integration = none ∧ t.timers.widthLimit = some prog.widthLimit.toNat)
    ∧ (prog.length = .timed → t.timers.widthLimit = none
        ∧ t.timers.integration = t.ctx.group.map fun g => g.integration.toNat)
    ∧ { t with state := hd.state, ctx := hd.ctx, timers := hd.timers, ring := hd.ring } = hd
    ∧ { t.ctx with pendingStart := hd.ctx.pendingStart, spacing := hd.ctx.spacing, group := hd.ctx.group } = hd.ctx
    ∧ (∀ g : GroupRecord, hd.ctx.group = some g → t.ring = hd.ring ∧ ∃ g' : GroupRecord, t.ctx.group = some g'
        ∧ { g' with late := g.late, dark := g.dark } = g
        ∧ (g'.late = true ↔ g.late = true ∨ late) ∧ (g'.dark = true ↔ g.dark = true ∨ dark))
    ∧ (hd.ctx.group = none →
        let ring := if hd.ring.applyPending
          then { hd.ring with live := hd.ring.staged, pointer := 0, applyPending := false } else hd.ring
        let set := ring.live.sets[ring.pointer.val]'ring.pointer.isLt
        t.ring = { ring with pointer := Fin.ofNat 8 ((ring.pointer.val + 1) % ring.live.length.toNat) }
        ∧ ∃ g' : GroupRecord, t.ctx.group = some g'
          ∧ { g' with late := false, dark := false } = {
              setIndex := ring.pointer, integration := set.integration, gain := set.gain, tag := set.tag
              timestamp := now, cause := p.kind, latency := p.latency, span := 0
              stretched := false, dark := false, late := false, overrun := false }
          ∧ (g'.late = true ↔ late) ∧ (g'.dark = true ↔ dark))

/-- The end condition of an exposure, by the integration expiry, by the width-limit expiry with OVERRUN or by its release: not
the last of its group, the exposure ends, its length is added to SPAN, which saturates at 4,294,967,295, and the head is ARMED,
or PACING under TIMER; the last with the slot EMPTY completes the group into the slot, joins the queue, an URGENT request ahead
of every NORMAL one by the Priority in each slot's group, and decides the burst's course; the last with the slot full is held in
EXTENDING, STRETCHED. The head's channel is released at each actual end. A timer that is not due, for it has ticks left, is
stopped, or its head does not expose, does not expire (R54 to R58, R60, R61, R79, R113; log 2). The model's choices: the
grant that a join lets follow is the later command GRANT (log 4), and an EMPTY slot, which has no request, counts as NORMAL (log
17). -/
def Obligations.ExposureEndCondition : Prop :=
  (∀ (s : State) (k : HeadIx), s.slotPriority k = match (s.head k).slot with
    | .queued g => g.priority
    | .active g => g.priority
    | .empty => .normal)
  ∧ (∀ (h : HeadIx) (s : State),
    ((s.head h).state = .exposing → (s.head h).timers.integration = some 0 →
      exec (.integrationExpiry h) s = .next (endCondition h false s))
    ∧ ((s.head h).state = .exposing → (s.head h).timers.widthLimit = some 0 →
      exec (.widthLimitExpiry h) s = .next (endCondition h true s))
    ∧ ((s.head h).state ≠ .exposing ∨ (s.head h).timers.integration ≠ some 0 → exec (.integrationExpiry h) s = .next s)
    ∧ ((s.head h).state ≠ .exposing ∨ (s.head h).timers.widthLimit ≠ some 0 → exec (.widthLimitExpiry h) s = .next s))
  ∧ ∀ (h : HeadIx) (s : State) (overrun : Bool) (g : GroupRecord),
    let hd := s.head h
    let flagged := { g with overrun := g.overrun || overrun }
    let ended := { flagged with
      span := BitVec.ofNat 32 (min (g.span.toNat + hd.timers.exposure.getD 0) 4294967295) }
    let last : Prop := hd.ctx.exposuresDone.toNat + 1 = hd.ctx.prog.accumulate.toNat
    let freed := releaseStrobe h s
    let urgent (k : HeadIx) : Bool := match (s.head k).slot with
      | .queued c => decide (c.priority = .urgent)
      | .active c => decide (c.priority = .urgent)
      | .empty => false
    hd.state = .exposing → hd.ctx.group = some g → (∀ n : ChanIx, h ∉ (s.chan n).waiters) →
      (¬ last → hd.ctx.prog.repetition = .trigger → endCondition h overrun s = freed.setHead h { hd with
          state := .armed
          ctx := { hd.ctx with startLine := none, group := some ended, exposuresDone := hd.ctx.exposuresDone + 1 }
          timers := HeadTimers.stopped })
      ∧ (¬ last → hd.ctx.prog.repetition = .timer →
          let paced : State := freed.setHead h { hd with
            state := .pacing
            ctx := { hd.ctx with startLine := none, group := some ended, exposuresDone := hd.ctx.exposuresDone + 1 }
            timers := HeadTimers.stopped }
          (∀ n : Nat, hd.ctx.spacing = .running n → endCondition h overrun s = paced)
          ∧ (∀ (n : Word) (time : Stamp), hd.ctx.spacing = .expired n time →
            endCondition h overrun s = pacedAttempt h n time paced))
      ∧ (last → hd.slot ≠ .empty → endCondition h overrun s = s.setHead h { hd with
          state := .extending
          ctx := { hd.ctx with startLine := none, group := some { flagged with stretched := true } }
          timers := { hd.timers with integration := none, widthLimit := none } })
      ∧ (last → hd.slot = .empty → endCondition h overrun s = decideBurst h
          { freed.setHead h { hd with
              slot := .queued ⟨ended, hd.ctx.prog.priority, hd.ctx.prog.readoutLimit, hd.ctx.prog.fields, false⟩
              ctx := { hd.ctx with
                startLine := none
                group := none
                exposuresDone := 0
                groupsDone := if hd.ctx.groupsDone = 255 then 255 else hd.ctx.groupsDone + 1 }
              timers := HeadTimers.stopped } with
            arb := { s.arb with queue := match hd.ctx.prog.priority with
              | .normal => s.arb.queue ++ [h]
              | .urgent => s.arb.queue.takeWhile urgent ++ h :: s.arb.queue.dropWhile urgent } })

/-- The course of a burst after a group completion: STOPPED, COMPLETE with or without a Link, an accepted or a refused
successor, and the three ways to continue (R62 to R66, R93, Table 3.5). -/
def Obligations.BurstCourseAfterAGroup : Prop :=
  ∀ (h : HeadIx) (s : State),
    let hd := s.head h
    let reached : Prop := hd.ctx.stopPending = false ∧ hd.ctx.prog.burst ≠ 0 ∧ hd.ctx.groupsDone = hd.ctx.prog.burst
    let goesOn : Prop := hd.ctx.stopPending = false ∧ (hd.ctx.prog.burst = 0 ∨ hd.ctx.groupsDone ≠ hd.ctx.prog.burst)
    let drained (o : State) : State :=
      let t := o.setHead h { o.head h with
        state := if hd.slot = .empty then .idle else .draining
        ctx := { hd.ctx with
          pendingStart := none, startLine := none, spacing := .stopped, latch := none, stopPending := false }
        timers := HeadTimers.stopped
        ring := if hd.ring.applyPending
          then { hd.ring with live := hd.ring.staged, pointer := 0, applyPending := false } else hd.ring }
      if hd.slot = .empty then { t with irq := t.irq.raise (doneBit h) } else t
    (hd.ctx.stopPending = true →
      decideBurst h s = drained (offer h (.burstEnd .stopped none hd.ctx.progIndex none) s))
    ∧ (reached → hd.ctx.prog.link = 0 →
      decideBurst h s = drained (offer h (.burstEnd .complete none hd.ctx.progIndex none) s))
    ∧ (∀ (n : EntryIx) (code : ValCode), reached → hd.ctx.prog.link.toNat = n.val + 1 →
      validate (s.entry n) = some code →
      decideBurst h s = drained (offer h (.burstEnd .linkInvalid (some code) hd.ctx.progIndex (some n)) s))
    ∧ (∀ n : EntryIx, reached → hd.ctx.prog.link.toNat = n.val + 1 → validate (s.entry n) = none →
      let o := offer h (.burstEnd .complete none hd.ctx.progIndex (some n)) s
      decideBurst h s = o.setHead h { o.head h with
        state := match (s.entry n).prog.overlap with
          | .strict => .blocked
          | .overlap => .armed
        ctx := { Context.cleared with progIndex := n, prog := (s.entry n).prog }
        timers := HeadTimers.stopped })
    ∧ (goesOn → hd.ctx.prog.overlap = .strict → decideBurst h s = s.setHead h { hd with state := .blocked })
    ∧ (goesOn → hd.ctx.prog.overlap = .overlap → hd.ctx.prog.repetition = .trigger →
      decideBurst h s = s.setHead h { hd with state := .armed })
    ∧ (goesOn → hd.ctx.prog.overlap = .overlap → hd.ctx.prog.repetition = .timer →
      let paced : State := s.setHead h { hd with state := .pacing, timers := HeadTimers.stopped }
      (∀ n : Nat, hd.ctx.spacing = .running n → decideBurst h s = paced)
      ∧ ∀ (n : Word) (time : Stamp), hd.ctx.spacing = .expired n time →
        decideBurst h s = pacedAttempt h n time paced)

/-- A spacing expiry keeps its time and starts the overdue count; in PACING it makes the PACED start attempt on time. The
attempt at the next tick of the overdue count, after a wait that expired at once, takes the count as its latency, as every paced
attempt does. Neither happens when it is not due (R40, R41, R58, R59, R105; log 2). -/
def Obligations.PacedAttempts : Prop :=
  ∀ (h : HeadIx) (s : State),
    let hd := s.head h
    (∀ (n : Word) (time : Stamp), pacedAttempt h n time s = attemptStart h (s.setHead h { hd with
        ctx := { hd.ctx with pendingStart := some ⟨.paced, time, n⟩ }
        timers := { hd.timers with retry := .none } }))
    ∧ (hd.ctx.spacing = .running 0 → hd.state ≠ .pacing →
      exec (.spacingExpiry h) s = .next (s.setHead h { hd with ctx := { hd.ctx with spacing := .expired 0 s.now } }))
    ∧ (hd.ctx.spacing = .running 0 → hd.state = .pacing →
      exec (.spacingExpiry h) s = .next (attemptStart h (s.setHead h { hd with
        ctx := { hd.ctx with spacing := .expired 0 s.now, pendingStart := some ⟨.paced, s.now, 0⟩ }
        timers := { hd.timers with retry := .none } })))
    ∧ (hd.ctx.spacing ≠ .running 0 → exec (.spacingExpiry h) s = .next s)
    ∧ (∀ (n : Word) (time : Stamp), hd.state = .pacing → hd.timers.retry = .due → hd.ctx.spacing = .expired n time →
      exec (.overdueTickAttempt h) s = .next (attemptStart h (s.setHead h { hd with
        ctx := { hd.ctx with pendingStart := some ⟨.paced, time, n⟩ }
        timers := HeadTimers.stopped })))
    ∧ (hd.state ≠ .pacing ∨ hd.timers.retry ≠ .due → exec (.overdueTickAttempt h) s = .next s)

/-- The expiry of a strobe wait: the head leaves the list, the others keep their order, the start is dropped
STROBE_TIMEOUT with its arrival time; a TRIGGERED or LATCHED start leaves the head ARMED, a PACED one in PACING, where it
tries again at once or, under Strobe Wait 0, at the next tick (R105). -/
def Obligations.StrobeWaitExpiryDropsTheStart : Prop :=
  ∀ (h : HeadIx) (s : State) (p : PendingStart),
    let hd := s.head h
    let dropped (source : Option Source) : State := dropTrigger h .strobeTimeout source p.arrival
      ((leaveWaiters h s).setHead h { hd with
        state := .armed
        ctx := { hd.ctx with pendingStart := none, startLine := none }
        timers := HeadTimers.stopped })
    (∀ n : ChanIx, (leaveWaiters h s).chan n
      = { s.chan n with waiters := (s.chan n).waiters.filter fun w => decide (w ≠ h) })
    ∧ { leaveWaiters h s with chans := s.chans } = s
    ∧ ((hd.state = .strobeWait ∧ hd.timers.strobeWait = some 0 ∧ hd.ctx.pendingStart = some p) →
      (∀ src : Source, p.kind = .triggered src ∨ p.kind = .latched src →
        exec (.strobeWaitExpiry h) s = .next (dropped (some src)))
      ∧ (p.kind = .paced → hd.ctx.prog.strobeWait = 0 →
        exec (.strobeWaitExpiry h) s = .next ((dropped none).setHead h { (dropped none).head h with
          state := .pacing, timers := { HeadTimers.stopped with retry := .waiting } }))
      ∧ (∀ (n : Word) (time : Stamp), p.kind = .paced → hd.ctx.prog.strobeWait ≠ 0 →
        hd.ctx.spacing = .expired n time →
        exec (.strobeWaitExpiry h) s = .next (pacedAttempt h n time
          ((dropped none).setHead h { (dropped none).head h with
            state := .pacing, timers := HeadTimers.stopped }))))
    ∧ (hd.state ≠ .strobeWait ∨ hd.timers.strobeWait ≠ some 0 → exec (.strobeWaitExpiry h) s = .next s)

/-! ## Strobe channels -/

/-- STROBE_CFG: enabling a DISABLED channel makes it FREE; disabling one makes it DISABLED, its holder goes on DARK without
the lock, and each waiter, oldest first, starts without the lock; a polarity changes the line's level at the write; a setting
left as it was does nothing (R108, R110). The rows act by setStrobe, by which RegisterWriteActsAsTheRow says a word of several
settings; one that changes both settings of a channel acts as the polarity's row and then the enable's. -/
def Obligations.StrobeConfigurationWrites : Prop :=
  ∀ (n : ChanIx) (s : State),
    let c := s.chan n
    let quiet (i : Instr) (c' : Channel) : Prop := ∃ t : State, exec i s = .next t
      ∧ t.chan n = c' ∧ (∀ k : ChanIx, k ≠ n → t.chan k = s.chan k) ∧ { t with chans := s.chans, port := s.port } = s
    let sets (i : Instr) (enable low : Bool) : Prop := ∃ t : State, exec i s = .next t
      ∧ { t with port := s.port } = setStrobe n enable low s
    sets (.strobeEnable n) true c.activeLow ∧ sets (.strobeDisable n) false c.activeLow
    ∧ (∀ low : Bool, sets (.strobePolarity n low) c.enabled low)
    ∧ (∀ enable low : Bool, ∃ t v : State, exec (.strobePolarity n low) s = .next t
        ∧ exec (if enable then .strobeEnable n else .strobeDisable n) t = .next v
        ∧ setStrobe n enable low s = { v with port := s.port })
    ∧ quiet (.strobeEnable n) { c with enabled := true }
    ∧ (c.enabled = false → quiet (.strobeDisable n) c)
    ∧ (c.enabled = true → ∃ t : State, exec (.strobeDisable n) s = .next t
        ∧ { t with port := s.port } = c.waiters.foldl (fun a w => startExposure w false a)
          (match c.holder with
            | none => s.setChan n { c with enabled := false, holder := none, waiters := [] }
            | some h => (s.setChan n { c with enabled := false, holder := none, waiters := [] }).setHead h
                { s.head h with ctx := { (s.head h).ctx with
                  group := (s.head h).ctx.group.map fun g => { g with dark := true } } }))
    ∧ ∀ low : Bool, quiet (.strobePolarity n low) { c with activeLow := low }
        ∧ ∀ t : State, exec (.strobePolarity n low) s = .next t →
          t.stbPin n = (if c.enabled = true ∧ c.holder.isSome = true then !low else low)

/-- A release: the oldest waiter becomes holder and its exposure starts with the lock; with none waiting the channel is
FREE; a head that holds no channel releases nothing (R103, R104). -/
def Obligations.ReleaseHandsTheChannelOn : Prop :=
  ∀ (h : HeadIx) (s : State),
    ((∀ n : ChanIx, (s.chan n).holder ≠ some h) → releaseStrobe h s = s)
    ∧ ∀ n : ChanIx, (s.chan n).holder = some h → (∀ k : ChanIx, (s.chan k).holder = some h → k = n) →
      ((s.chan n).waiters = [] → releaseStrobe h s = s.setChan n { s.chan n with holder := none })
      ∧ ∀ (w : HeadIx) (ws : List HeadIx) (p : PendingStart), (s.chan n).waiters = w :: ws →
        (s.head w).ctx.pendingStart = some p →
        releaseStrobe h s = (s.setHead w ((s.head w).startExposure s.now p true)).setChan n
          { s.chan n with holder := some w, waiters := ws }

/-! ## Readout arbiter and link -/

/-- LINK_CFG and the grant: the front request leaves the queue, its slot becomes ACTIVE, the tag counter's next value is the
tag, a START with head, tag and the slot's Gain is passed on, the timer counts the slot's Readout Limit, the port is BUSY; it is
made at GRANT and at the setting of a clear enable when the three conditions hold, and not otherwise; clearing the enable changes
nothing else (R116, R118). The model's choice (log 4): a grant due at an enable already set is the later command GRANT, so a
LINK_CFG write that finds the enable set makes none. -/
def Obligations.GrantAndLinkEnable : Prop :=
  ∀ s : State,
    let granted (h : HeadIx) (g : Completed) (rest : List HeadIx) (t : State) : Prop :=
      t.head h = { s.head h with slot := .active g } ∧ (∀ k : HeadIx, k ≠ h → t.head k = s.head k)
      ∧ t.arb = { s.arb with
          queue := rest, tagCounter := s.arb.tagCounter + 1, linkEnable := true
          port := .busy h (s.arb.tagCounter + 1) g.readoutLimit.toNat }
      ∧ t.link = s.link.pass (.start h (s.arb.tagCounter + 1) (g.record.gain.extractLsb' 0 10))
      ∧ { t with heads := s.heads, arb := s.arb, link := s.link, port := s.port } = s
    let quiet (c : Instr) (on : Bool) : Prop := ∃ t : State, exec c s = .next t
      ∧ t.arb = { s.arb with linkEnable := on } ∧ { t with arb := s.arb, port := s.port } = s
    (s.grantDue = true ↔ s.arb.port = .idle ∧ s.arb.linkEnable = true ∧ s.arb.queue ≠ [])
    ∧ exec .grant s = .next (tryGrant s)
    ∧ (∀ (h : HeadIx) (rest : List HeadIx) (g : Completed),
      s.arb.port = .idle → s.arb.queue = h :: rest → (s.head h).slot = .queued g →
      (s.arb.linkEnable = true → ∃ t : State, exec .grant s = .next t ∧ t.port = s.port ∧ granted h g rest t)
      ∧ (s.arb.linkEnable = false → ∃ t : State, exec .linkEnable s = .next t ∧ granted h g rest t))
    ∧ (s.arb.port ≠ .idle ∨ s.arb.linkEnable = false ∨ s.arb.queue = [] → exec .grant s = .next s)
    ∧ (s.arb.port ≠ .idle ∨ s.arb.linkEnable = true ∨ s.arb.queue = [] → quiet .linkEnable true)
    ∧ quiet .linkDisable false

/-- The transmitter: messages go out in the order in which they are made; a CANCEL whose START still waits discards that
START and is not sent; FRAME_SENT begins the next message waiting (R119). The bytes of START and CANCEL on LTX, check byte
last, are those of Table 11.6 (R182); that the bits of START's byte 3 above the gain are zero is the model's choice (log 24). -/
def Obligations.TransmitterKeepsTheOrder : Prop :=
  (∀ (s : State) (h : HeadIx) (tag : Byte) (gain : BitVec 10),
    (s.link.sending = none → s.ltxFrame = [])
    ∧ (s.link.sending = some (.start h tag gain) → ∃ head hi lo : Byte,
        s.ltxFrame = [0xA1, head, tag, hi, lo, crc8 [0xA1, head, tag, hi, lo]]
        ∧ head.toNat = h.val ∧ hi.toNat < 4 ∧ hi.toNat * 256 + lo.toNat = gain.toNat)
    ∧ (s.link.sending = some (.cancel tag) → s.ltxFrame = [0xA2, tag, crc8 [0xA2, tag]]))
  ∧ (∀ (l : LinkEnds) (m : Message),
    let discards : Prop := ∃ (tag : Byte) (h : HeadIx) (gain : BitVec 10), m = .cancel tag ∧ .start h tag gain ∈ l.waiting
    (¬ discards → l.sending = none → l.pass m = { l with sending := some m })
    ∧ (¬ discards → l.sending ≠ none → l.pass m = { l with waiting := l.waiting ++ [m] })
    ∧ (discards → (l.pass m).sending = l.sending ∧ (l.pass m).rxWaitsIdle = l.rxWaitsIdle
      ∧ (l.pass m).waiting.Sublist l.waiting
      ∧ ∀ x : Message, x ∈ (l.pass m).waiting ↔
          x ∈ l.waiting ∧ ∀ (tag : Byte) (h : HeadIx) (gain : BitVec 10), m = .cancel tag → x ≠ .start h tag gain))
  ∧ ∀ s : State,
    (s.link.sending ≠ none → s.link.waiting = [] →
      exec .frameSent s = .next { s with link := { s.link with sending := none } })
    ∧ (∀ (m : Message) (ms : List Message), s.link.sending ≠ none → s.link.waiting = m :: ms →
      exec .frameSent s = .next { s with link := { s.link with sending := some m, waiting := ms } })
    ∧ (s.link.sending = none → exec .frameSent s = .next s)

/-- A COMPLETE: stray, it is counted and raises STRAY; matching GOOD or ERROR, the CAPTURE record of the slot is offered, then
the slot is EMPTY and the port IDLE, and the head acts by its state: DRAINING enters IDLE with DONE, BLOCKED takes Table 4.1,
another state but EXTENDING goes on; matching REJECT, the head is handed the fault REJECTED and no record of the group is
written (R42, R66, R74, R75, R121 to R124, R132). What ends an extension is the next statement's. A receiver that waits for
idle takes no frame (R181). The model's choice (log 4): the grant that R122 and R124 put after the emptying is the later command
GRANT, so the next state has the port IDLE. -/
def Obligations.CompleteEndsTheReadout : Prop :=
  ∀ (tag : Byte) (status : Status) (level : Word) (s : State),
    let stray : State := { s with
      arb := { s.arb with stray := if s.arb.stray = 255 then 255 else s.arb.stray + 1 }
      irq := { s.irq with flags := s.irq.flags ||| 0x0008 } }
    (s.link.rxWaitsIdle = true → exec (.complete tag status level) s = .next s)
    ∧ (s.link.rxWaitsIdle = false →
      (s.arb.port = .idle → exec (.complete tag status level) s = .next stray)
      ∧ ∀ (h : HeadIx) (active : Byte) (n : Nat), s.arb.port = .busy h active n →
        (tag ≠ active → exec (.complete tag status level) s = .next stray)
        ∧ ∀ g : Completed, tag = active → (s.head h).slot = .active g →
          let r := g.record
          let emptied (o : State) : State :=
            { o.setHead h { o.head h with slot := .empty } with arb := { s.arb with port := .idle } }
          let u := emptied (offer h (.capture ⟨r.stretched, r.dark, r.late, g.aborted, r.overrun, decide (status = .error)⟩
              (if g.fields.getLsbD 0 then some r.timestamp else none)
              (if g.fields.getLsbD 1 then some r.span else none)
              (if g.fields.getLsbD 2 then some (r.setIndex, r.tag, r.gain) else none)
              (if g.fields.getLsbD 3 then some (r.cause, r.latency) else none)
              (if g.fields.getLsbD 4 then some (status, level) else none)) s)
          (status = .reject → exec (.complete tag status level) s = .next (headFault h .rejected (emptied s)))
          ∧ (status ≠ .reject →
            ((s.head h).state = .draining → exec (.complete tag status level) s
              = .next { u.setHead h { u.head h with state := .idle } with irq := u.irq.raise (doneBit h) })
            ∧ (∀ l : Latch, (s.head h).state = .blocked → (s.head h).ctx.latch = some l →
              exec (.complete tag status level) s
                = .next (acceptStart h ⟨.latched l.source, l.arrival, l.age⟩ l.source u))
            ∧ ((s.head h).state = .blocked → (s.head h).ctx.latch = none →
              ((s.head h).ctx.prog.repetition = .trigger ∨ (s.head h).ctx.spacing = .stopped →
                exec (.complete tag status level) s = .next (u.setHead h { u.head h with state := .armed }))
              ∧ (∀ k : Nat, (s.head h).ctx.prog.repetition = .timer → (s.head h).ctx.spacing = .running k →
                exec (.complete tag status level) s
                  = .next (u.setHead h { u.head h with state := .pacing, timers := HeadTimers.stopped }))
              ∧ (∀ (k : Word) (time : Stamp), (s.head h).ctx.prog.repetition = .timer →
                (s.head h).ctx.spacing = .expired k time → exec (.complete tag status level) s
                  = .next (pacedAttempt h k time
                    (u.setHead h { u.head h with state := .pacing, timers := HeadTimers.stopped }))))
            ∧ ((s.head h).state ∈ [.off, .idle, .armed, .pacing, .delay, .strobeWait, .exposing, .fault] →
              exec (.complete tag status level) s = .next u)))

/-- A matching GOOD or ERROR completion under EXTENDING ends the exposure and completes the held group after the CAPTURE
record is offered and the slot is EMPTY; the grant to a waiting request comes before the group's own request joins or, as the
command GRANT, after it (R81, R117, R122; log 4). The held group's completion: the channel is released, the whole length is added
to SPAN, saturating, the record enters the slot as QUEUED with Priority, Readout Limit and Fields, the request joins the queue by
its class, the counters move, and the burst's course is decided (R56, R57, R61, R113; an EMPTY slot counts as NORMAL: log 17). -/
def Obligations.CompletionEndsTheExtension : Prop :=
  (∀ (h : HeadIx) (r : GroupRecord) (s : State),
    let hd := s.head h
    let urgent (k : HeadIx) : Bool := match (s.head k).slot with
      | .queued c => decide (c.priority = .urgent)
      | .active c => decide (c.priority = .urgent)
      | .empty => false
    hd.state = .extending → hd.ctx.group = some r → (∀ n : ChanIx, h ∉ (s.chan n).waiters) →
    completeGroup h (endExposure h s) = decideBurst h
      { (releaseStrobe h s).setHead h { hd with
          slot := .queued ⟨{ r with span := BitVec.ofNat 32 (min (r.span.toNat + hd.timers.exposure.getD 0) 4294967295) },
            hd.ctx.prog.priority, hd.ctx.prog.readoutLimit, hd.ctx.prog.fields, false⟩
          ctx := { hd.ctx with
            group := none
            exposuresDone := 0
            groupsDone := if hd.ctx.groupsDone = 255 then 255 else hd.ctx.groupsDone + 1 }
          timers := HeadTimers.stopped } with
        arb := { s.arb with queue := match hd.ctx.prog.priority with
          | .normal => s.arb.queue ++ [h]
          | .urgent => s.arb.queue.takeWhile urgent ++ h :: s.arb.queue.dropWhile urgent } })
  ∧ ∀ (tag : Byte) (status : Status) (level : Word) (h : HeadIx) (n : Nat) (g : Completed) (s : State),
    s.link.rxWaitsIdle = false → s.arb.port = .busy h tag n → (s.head h).slot = .active g → status ≠ .reject →
    (s.head h).state = .extending →
    let r := g.record
    let o := offer h (.capture ⟨r.stretched, r.dark, r.late, g.aborted, r.overrun, decide (status = .error)⟩
      (if g.fields.getLsbD 0 then some r.timestamp else none)
      (if g.fields.getLsbD 1 then some r.span else none)
      (if g.fields.getLsbD 2 then some (r.setIndex, r.tag, r.gain) else none)
      (if g.fields.getLsbD 3 then some (r.cause, r.latency) else none)
      (if g.fields.getLsbD 4 then some (status, level) else none)) s
    let u : State := { o.setHead h { o.head h with slot := .empty } with arb := { s.arb with port := .idle } }
    let waits : Prop := s.arb.linkEnable = true ∧ s.arb.queue ≠ []
    (¬ waits → exec (.complete tag status level) s = .next (completeGroup h (endExposure h u)))
    ∧ (waits →
      exec (.complete tag status level) s
          = .next (completeGroup h (endExposure h { u with choices := s.choices + 1 }))
        ∨ ∃ v : State, exec .grant { u with choices := s.choices + 1 } = .next v
          ∧ exec (.complete tag status level) s = .next (completeGroup h (endExposure h v)))

/-- A readout timeout passes a CANCEL, empties the slot, frees the port and hands the head its fault: teardown, FAULT record
with the exposures discarded and the time, FAULTn, FAULT, a pending APPLY committed. A timer that is not due does not expire
(R93, R125, R137, R151, R159; log 2). The model's choice (log 4): the grant that R125 lets follow is the later command GRANT. -/
def Obligations.ReadoutTimeoutFaultsTheHead : Prop :=
  ∀ s : State,
    (∀ (h : HeadIx) (tag : Byte), s.arb.port = .busy h tag 0 →
      let freed : State := { s.setHead h { s.head h with slot := .empty } with
        arb := { s.arb with port := .idle }, link := s.link.pass (.cancel tag) }
      exec .readoutTimeout s = .next (headFault h .readoutTimeout freed))
    ∧ ((∀ (h : HeadIx) (tag : Byte), s.arb.port ≠ .busy h tag 0) → exec .readoutTimeout s = .next s)
    ∧ ∀ (h : HeadIx) (code : FaultCode),
      let d := teardown h s
      let discarded : BitVec 5 := if (s.head h).ctx.group = none then 0
        else if (s.head h).state = .exposing ∨ (s.head h).state = .extending
          then (s.head h).ctx.exposuresDone.zeroExtend 5 + 1
          else (s.head h).ctx.exposuresDone.zeroExtend 5
      let o := offer h (.fault code discarded s.now) d
      headFault h code s = { o.setHead h { o.head h with
          state := .fault
          ring := if (d.head h).ring.applyPending
            then { (d.head h).ring with live := (d.head h).ring.staged, pointer := 0, applyPending := false }
            else (d.head h).ring } with
        irq := o.irq.raise (faultBit h) }

/-- The receiver: a frame that fails the examination and a short frame are link errors, counted and raising LINK, without
another effect; after a short frame, and while it waits for idle, it takes no frame until a byte time of idle. LINK_CNT's write
clears both counters (R120, R128, R181). -/
def Obligations.ReceiverCountsLinkErrors : Prop :=
  (∀ (f : RxFrame) (s : State),
    let counted : State := { s with
      arb := { s.arb with linkErrors := if s.arb.linkErrors = 255 then 255 else s.arb.linkErrors + 1 }
      irq := { s.irq with flags := s.irq.flags ||| 0x0010 } }
    let fails : Prop := crc8 [f.b0, f.b1, f.b2, f.b3, f.b4] ≠ f.b5 ∨ f.b0 ≠ 0xA3 ∨ f.b2 ∉ [0x01#8, 0x02#8, 0x03#8]
    (s.link.rxWaitsIdle = false → fails → exec (.linkError f) s = .next counted)
    ∧ (s.link.rxWaitsIdle = true → exec (.linkError f) s = .next s)
    ∧ (s.link.rxWaitsIdle = false →
      exec .shortFrame s = .next { counted with link := { s.link with rxWaitsIdle := true } })
    ∧ (s.link.rxWaitsIdle = true → exec .shortFrame s = .next s)
    ∧ exec .byteTimeIdle s = .next { s with link := { s.link with rxWaitsIdle := false } })
  ∧ ∀ s : State, ∃ t : State, exec .linkCntClear s = .next t ∧ regRead t 0x5A = 0
    ∧ t.arb = { s.arb with stray := 0, linkErrors := 0 } ∧ { t with arb := s.arb, port := s.port } = s

/-! ## Timebase and interrupts -/

/-- The end of a tick: the counter is incremented, the next tick begins under the divider that stands, and every interval
timer, latency, age and overdue count moves by one tick (R40, R41, R72, R102, R105, R125, R165, R166). The model's choices: the
row ends the tick whatever REFCLK periods it has counted (log 16), and a timer at 0 stays at 0 over it (log 2). -/
def Obligations.TickCountsEveryTimer : Prop :=
  ∀ s : State, ∃ t : State, exec .tick s = .next t
    ∧ t.tb = { s.tb with counter := s.tb.counter + 1, tickCode := s.tb.divCode, refclks := 0, fresh := true }
    ∧ (∀ n : LineIx, t.line n = { s.line n with qualifier := (s.line n).qualifier.map fun q =>
        { q with candidate := q.candidate.map fun c => { c with left := c.left - 1 } } })
    ∧ (∀ g : RateIx, t.rate g = { s.rate g with run := (s.rate g).run.map fun k => { k with left := k.left - 1 } })
    ∧ (∀ h : HeadIx, t.head h = { s.head h with
        ctx := { (s.head h).ctx with
          spacing := match (s.head h).ctx.spacing with
            | .stopped => .stopped
            | .running n => .running (n - 1)
            | .expired n time => .expired (if n = 65535 then 65535 else n + 1) time
          pendingStart := (s.head h).ctx.pendingStart.map fun p =>
            { p with latency := if p.latency = 65535 then 65535 else p.latency + 1 }
          latch := (s.head h).ctx.latch.map fun l => { l with age := if l.age = 65535 then 65535 else l.age + 1 } }
        timers := {
          delay := (s.head h).timers.delay.map fun n => n - 1
          integration := (s.head h).timers.integration.map fun n => n - 1
          widthLimit := (s.head h).timers.widthLimit.map fun n => n - 1
          strobeWait := (s.head h).timers.strobeWait.map fun n => n - 1
          exposure := (s.head h).timers.exposure.map fun n => n + 1
          retry := if (s.head h).timers.retry = .none then .none else .due } })
    ∧ t.arb = { s.arb with port := match s.arb.port with
        | .idle => .idle
        | .busy h tag n => .busy h tag (n - 1) }
    ∧ { t with tb := s.tb, lines := s.lines, rates := s.rates, heads := s.heads, arb := s.arb } = s

/-- TB_LOAD moves the counter alone; a TB_LO read returns the low half and captures the high half of the same value; a TB_DIV
write stores the code, and the tick in progress keeps its own, but that a write together with a tick's end, the tick ending
first, governs the tick that has just begun (R166, R167, R168). The model's choice (log 23): a write of another code that finds
no REFCLK period counted since a tick's end is such a write or not. An event's timestamp is the counter's value (R165). -/
def Obligations.TimebaseRegisters : Prop :=
  ∀ s : State,
    s.now = s.tb.counter
    ∧ (∀ u : Byte, ∃ t : State, exec (.tbLoad u) s = .next t ∧ t.port.result &&& 0xF7FF = 0x0020
      ∧ t.tb.counter.toNat = s.port.arg1.toNat * 65536 + s.port.arg0.toNat
      ∧ { t.tb with counter := s.tb.counter } = s.tb ∧ { t with tb := s.tb, port := s.port } = s)
    ∧ (∃ t : State, exec .tbLoRead s = .next t
      ∧ (∃ w : Word, t.port.sdo = some w ∧ s.tb.counter.toNat = t.tb.captured.toNat * 65536 + w.toNat)
      ∧ regRead t 0x69 = t.tb.captured
      ∧ { t.tb with captured := s.tb.captured } = s.tb ∧ { t with tb := s.tb, port := s.port } = s)
    ∧ ∀ w : Word, ∃ t : State, exec (.tbDivWrite w) s = .next t
      ∧ regRead t 0x6A = w &&& 0x00FF
      ∧ (s.tb.fresh = false ∨ w.extractLsb' 0 8 = s.tb.divCode →
        { t.tb with divCode := s.tb.divCode } = s.tb ∧ { t with tb := s.tb, port := s.port } = s)
      ∧ (s.tb.fresh = true → w.extractLsb' 0 8 ≠ s.tb.divCode →
        (t.tb.fresh = false ∧ t.tb.tickCode = s.tb.tickCode ∨ t.tb.fresh = true ∧ t.tb.tickCode = t.tb.divCode)
        ∧ { t.tb with divCode := s.tb.divCode, tickCode := s.tb.tickCode, fresh := true } = s.tb
        ∧ { t with tb := s.tb, port := s.port, choices := s.choices } = s ∧ t.choices = s.choices + 1)

/-- IRQ_FLAGS clears the flags written with a one; IRQ_EN sets the thirteen enables; IRQ_CFG sets the polarity; Q_THRESH
stores the threshold, 0 as 1 and above 512 as 512. The request is active while a cause present is enabled, LEVEL is present
while the occupancy is at or above the threshold, and the line shows the request under the polarity (R148, R169, R170, R171). -/
def Obligations.InterruptRegistersAndLine : Prop :=
  ∀ (w : Word) (s : State),
    (∃ t : State, exec (.irqFlagsClear w) s = .next t
      ∧ (∀ i : Nat, t.irq.flags.getLsbD i = (s.irq.flags.getLsbD i && !w.getLsbD i))
      ∧ { t.irq with flags := s.irq.flags } = s.irq ∧ { t with irq := s.irq, port := s.port } = s)
    ∧ (∃ t : State, exec (.irqEnWrite w) s = .next t
      ∧ regRead t 0x71 = w &&& 0xFF1F ∧ { t.irq with enables := s.irq.enables } = s.irq
      ∧ { t with irq := s.irq, port := s.port } = s)
    ∧ (∀ high : Bool, ∃ t : State, exec (.irqPolarity high) s = .next t
      ∧ t.irq = { s.irq with activeHigh := high } ∧ { t with irq := s.irq, port := s.port } = s
      ∧ t.irqPin = (if s.irqRequest = true then high else !high))
    ∧ (∃ t : State, exec (.qThreshWrite w) s = .next t
      ∧ t.queue = { s.queue with threshold := if w = 0 then 1 else if 512 < w.toNat then 512 else w.toNat }
      ∧ { t with queue := s.queue, port := s.port } = s)
    ∧ (s.irqRequest = true ↔ (∃ i : Nat, i ≠ 0 ∧ s.irq.enables.getLsbD i = true ∧ i ∉ [5, 6, 7]
          ∧ s.irq.flags.getLsbD i = true)
        ∨ (s.irq.enables.getLsbD 0 = true ∧ s.queue.threshold ≤ s.queue.occupancy))

/-! ## Laws that every step keeps -/

/-- The record queue keeps its form; an enabled line's qualified level and candidate edge follow its pin; the tick in
progress stays within its divider, and flags and enables at the places of causes (R20, R21, R130, R148, R165, R169). -/
def Obligations.StepKeepsQueueLinesAndClock : Prop :=
  ∀ s t : State, step s = .next t →
    (s.queue.WF → t.queue.WF) ∧ (s.LineLaw → t.LineLaw) ∧ (s.ClockLaw → t.ClockLaw)

/-- The live ring is an accepted one, the pointer is below its length, what a pending APPLY would commit is an accepted ring,
and only a running head holds one (R85, R91, R93). -/
def Obligations.StepKeepsTheRingLaw : Prop :=
  ∀ s t : State, s.RingLaw → s.HeadStateLaw → step s = .next t → t.RingLaw

/-- One request per QUEUED slot, every URGENT one ahead of every NORMAL one by the Priority in its slot's group, the port BUSY
with the one ACTIVE slot, and the slots as the heads' states ask (R36, R42, R113, R115). The channels' and the contexts' laws
are premises: an EXTENDING head has its group open, and a waiter is in STROBE_WAIT. -/
def Obligations.StepKeepsTheArbiterLaw : Prop :=
  ∀ s t : State, s.ArbiterLaw → s.HeadStateLaw → s.StrobeLaw → s.ContextLaw → step s = .next t →
    t.ArbiterLaw ∧ t.HeadStateLaw
    ∧ t.arb.queue.Pairwise fun a b => ∀ g : Completed, (t.head b).slot = .queued g → g.priority = .urgent →
      ∃ g' : Completed, (t.head a).slot = .queued g' ∧ g'.priority = .urgent

/-- A channel's holder exposes, its waiters are exactly the heads in STROBE_WAIT whose programs name it (R97, R98, R101). -/
def Obligations.StepKeepsTheStrobeLaw : Prop :=
  ∀ s t : State, s.StrobeLaw → s.HeadStateLaw → step s = .next t → t.StrobeLaw

/-- The context of a head: counters, open group, STRICT and OVERLAP, timers, latch, starting source and spacing timer agree
with its state and program (R17, R38 to R41, R66, R70 to R73, R78, R102). -/
def Obligations.StepKeepsTheContextLaw : Prop :=
  ∀ s t : State, s.ContextLaw → s.HeadStateLaw → s.StrobeLaw → s.ArbiterLaw → step s = .next t → t.ContextLaw

/-- The transmitter holds at most three messages, while no COMPLETE comes that carries the tag of a START whose frame has not
begun, by COMPLETE or by a frame examined as one, which R126 asks of the digitizer; every other COMPLETE may come at any time
(R119, R121; log 21). -/
def Obligations.StepKeepsTheTransmitterLaw : Prop :=
  ∀ s t : State, s.TransmitterLaw → s.ArbiterLaw →
    (∀ (h : HeadIx) (tag : Byte) (gain : BitVec 10), .start h tag gain ∈ s.link.waiting →
      ∀ (status : Status) (level : Word), ∀ c ∈ s.pending.head?,
        c ≠ .complete tag status level ∧ ∀ f : RxFrame, c = .linkError f → examineFrame f ≠ some (tag, status, level)) →
    step s = .next t → t.TransmitterLaw ∧ t.link.sending.toList.length + t.link.waiting.length ≤ 3

/-- Every step keeps all the laws of the blocks together, from every state that has them. -/
def Obligations.StepKeepsEveryLaw : Prop :=
  ∀ s t : State, s.Inv → step s = .next t → t.Inv

/-- A head that enters IDLE from DRAINING or from a running state raises DONEn, under every row but the resets, and
REGISTER_WRITE and UNLISTED_COMMAND, whose words may be a reset; a head that enters FAULT raises FAULTn, under every row (R159,
R164). The premise is R36's, that a head not in OFF is enabled. -/
def Obligations.DoneAndFaultAreRaised : Prop :=
  ∀ (c : Instr) (s t : State) (h : HeadIx), s.HeadStateLaw → exec c s = .next t →
    ((s.head h).state ∉ [.off, .idle, .fault] → (t.head h).state = .idle →
      (∀ u : Byte, c ≠ .headReset u ∧ c ≠ .softReset u) → (∀ w : Word, c ≠ .registerWrite w ∧ c ≠ .unlistedCommand w) →
      t.irq.flags.getLsbD (8 + h.val) = true)
    ∧ ((s.head h).state ≠ .fault → (t.head h).state = .fault → t.irq.flags.getLsbD (12 + h.val) = true)

/-- Records stand in the queue in the order of their admission and are not altered: each command appends at the tail, but
QUEUE_READ, DISCARD and the resets, which take from the front, and REGISTER_WRITE and UNLISTED_COMMAND, whose words may be one
of these (R130, R131). -/
def Obligations.RecordsAreAppendedAtTheTail : Prop :=
  ∀ (c : Instr) (s t : State), exec c s = .next t → c ≠ .queueRead → c ≠ .powerOnReset →
    (∀ u : Byte, c ≠ .discard u ∧ c ≠ .softReset u) → (∀ w : Word, c ≠ .registerWrite w ∧ c ≠ .unlistedCommand w) →
    t.queue.readPos = s.queue.readPos ∧ ∃ new : List Record, t.queue.records = s.queue.records ++ new

end
end

