-- ==== Sys2Proof/Laws/State.lean ====
section
/-! SUPPORT. What each update of the state leaves and gives, field by field and block by block, each true by rfl or from
a vector's own law, so that no proof unfolds a record update. -/

namespace Sys2Proof.Machine

variable (s : State)

/-! ## Blocks of several like parts -/

@[simp] theorem mapAll_getElem {α β : Type} {n : Nat} (f : α → β) (v : Vector α n) (i : Nat) (hi : i < n) :
    (mapAll f v)[i] = f v[i] := by
  simp [mapAll, Vector.toList]

@[simp] theorem zipAll_getElem {α β γ : Type} {n : Nat} (f : α → β → γ) (v : Vector α n) (w : Vector β n) (i : Nat)
    (hi : i < n) : (zipAll f v w)[i] = f v[i] w[i] := by
  simp [zipAll, Vector.toList]

/-- A changed head is a set head; the laws of setHead then apply. -/
@[simp] theorem modHead_eq_setHead (h : HeadIx) (f : Head → Head) :
    s.modHead h f = s.setHead h (f (s.head h)) := rfl

/-! ## setHead -/

@[simp] theorem setHead_table (h : HeadIx) (x : Head) : (s.setHead h x).table = s.table := rfl
@[simp] theorem setHead_buffer (h : HeadIx) (x : Head) : (s.setHead h x).buffer = s.buffer := rfl
@[simp] theorem setHead_tin (h : HeadIx) (x : Head) : (s.setHead h x).tin = s.tin := rfl
@[simp] theorem setHead_lines (h : HeadIx) (x : Head) : (s.setHead h x).lines = s.lines := rfl
@[simp] theorem setHead_rates (h : HeadIx) (x : Head) : (s.setHead h x).rates = s.rates := rfl
@[simp] theorem setHead_chans (h : HeadIx) (x : Head) : (s.setHead h x).chans = s.chans := rfl
@[simp] theorem setHead_arb (h : HeadIx) (x : Head) : (s.setHead h x).arb = s.arb := rfl
@[simp] theorem setHead_link (h : HeadIx) (x : Head) : (s.setHead h x).link = s.link := rfl
@[simp] theorem setHead_queue (h : HeadIx) (x : Head) : (s.setHead h x).queue = s.queue := rfl
@[simp] theorem setHead_tb (h : HeadIx) (x : Head) : (s.setHead h x).tb = s.tb := rfl
@[simp] theorem setHead_irq (h : HeadIx) (x : Head) : (s.setHead h x).irq = s.irq := rfl
@[simp] theorem setHead_port (h : HeadIx) (x : Head) : (s.setHead h x).port = s.port := rfl
@[simp] theorem setHead_choices (h : HeadIx) (x : Head) : (s.setHead h x).choices = s.choices := rfl
@[simp] theorem setHead_pending (h : HeadIx) (x : Head) : (s.setHead h x).pending = s.pending := rfl

/-! ## setLine -/

@[simp] theorem setLine_table (n : LineIx) (x : Line) : (s.setLine n x).table = s.table := rfl
@[simp] theorem setLine_buffer (n : LineIx) (x : Line) : (s.setLine n x).buffer = s.buffer := rfl
@[simp] theorem setLine_tin (n : LineIx) (x : Line) : (s.setLine n x).tin = s.tin := rfl
@[simp] theorem setLine_rates (n : LineIx) (x : Line) : (s.setLine n x).rates = s.rates := rfl
@[simp] theorem setLine_heads (n : LineIx) (x : Line) : (s.setLine n x).heads = s.heads := rfl
@[simp] theorem setLine_chans (n : LineIx) (x : Line) : (s.setLine n x).chans = s.chans := rfl
@[simp] theorem setLine_arb (n : LineIx) (x : Line) : (s.setLine n x).arb = s.arb := rfl
@[simp] theorem setLine_link (n : LineIx) (x : Line) : (s.setLine n x).link = s.link := rfl
@[simp] theorem setLine_queue (n : LineIx) (x : Line) : (s.setLine n x).queue = s.queue := rfl
@[simp] theorem setLine_tb (n : LineIx) (x : Line) : (s.setLine n x).tb = s.tb := rfl
@[simp] theorem setLine_irq (n : LineIx) (x : Line) : (s.setLine n x).irq = s.irq := rfl
@[simp] theorem setLine_port (n : LineIx) (x : Line) : (s.setLine n x).port = s.port := rfl
@[simp] theorem setLine_choices (n : LineIx) (x : Line) : (s.setLine n x).choices = s.choices := rfl
@[simp] theorem setLine_pending (n : LineIx) (x : Line) : (s.setLine n x).pending = s.pending := rfl

/-! ## setRate -/

@[simp] theorem setRate_table (g : RateIx) (x : RateGen) : (s.setRate g x).table = s.table := rfl
@[simp] theorem setRate_buffer (g : RateIx) (x : RateGen) : (s.setRate g x).buffer = s.buffer := rfl
@[simp] theorem setRate_tin (g : RateIx) (x : RateGen) : (s.setRate g x).tin = s.tin := rfl
@[simp] theorem setRate_lines (g : RateIx) (x : RateGen) : (s.setRate g x).lines = s.lines := rfl
@[simp] theorem setRate_heads (g : RateIx) (x : RateGen) : (s.setRate g x).heads = s.heads := rfl
@[simp] theorem setRate_chans (g : RateIx) (x : RateGen) : (s.setRate g x).chans = s.chans := rfl
@[simp] theorem setRate_arb (g : RateIx) (x : RateGen) : (s.setRate g x).arb = s.arb := rfl
@[simp] theorem setRate_link (g : RateIx) (x : RateGen) : (s.setRate g x).link = s.link := rfl
@[simp] theorem setRate_queue (g : RateIx) (x : RateGen) : (s.setRate g x).queue = s.queue := rfl
@[simp] theorem setRate_tb (g : RateIx) (x : RateGen) : (s.setRate g x).tb = s.tb := rfl
@[simp] theorem setRate_irq (g : RateIx) (x : RateGen) : (s.setRate g x).irq = s.irq := rfl
@[simp] theorem setRate_port (g : RateIx) (x : RateGen) : (s.setRate g x).port = s.port := rfl
@[simp] theorem setRate_choices (g : RateIx) (x : RateGen) : (s.setRate g x).choices = s.choices := rfl
@[simp] theorem setRate_pending (g : RateIx) (x : RateGen) : (s.setRate g x).pending = s.pending := rfl

/-! ## setChan -/

@[simp] theorem setChan_table (n : ChanIx) (x : Channel) : (s.setChan n x).table = s.table := rfl
@[simp] theorem setChan_buffer (n : ChanIx) (x : Channel) : (s.setChan n x).buffer = s.buffer := rfl
@[simp] theorem setChan_tin (n : ChanIx) (x : Channel) : (s.setChan n x).tin = s.tin := rfl
@[simp] theorem setChan_lines (n : ChanIx) (x : Channel) : (s.setChan n x).lines = s.lines := rfl
@[simp] theorem setChan_rates (n : ChanIx) (x : Channel) : (s.setChan n x).rates = s.rates := rfl
@[simp] theorem setChan_heads (n : ChanIx) (x : Channel) : (s.setChan n x).heads = s.heads := rfl
@[simp] theorem setChan_arb (n : ChanIx) (x : Channel) : (s.setChan n x).arb = s.arb := rfl
@[simp] theorem setChan_link (n : ChanIx) (x : Channel) : (s.setChan n x).link = s.link := rfl
@[simp] theorem setChan_queue (n : ChanIx) (x : Channel) : (s.setChan n x).queue = s.queue := rfl
@[simp] theorem setChan_tb (n : ChanIx) (x : Channel) : (s.setChan n x).tb = s.tb := rfl
@[simp] theorem setChan_irq (n : ChanIx) (x : Channel) : (s.setChan n x).irq = s.irq := rfl
@[simp] theorem setChan_port (n : ChanIx) (x : Channel) : (s.setChan n x).port = s.port := rfl
@[simp] theorem setChan_choices (n : ChanIx) (x : Channel) : (s.setChan n x).choices = s.choices := rfl
@[simp] theorem setChan_pending (n : ChanIx) (x : Channel) : (s.setChan n x).pending = s.pending := rfl

/-! ## setEntry -/

@[simp] theorem setEntry_buffer (n : EntryIx) (x : Entry) : (s.setEntry n x).buffer = s.buffer := rfl
@[simp] theorem setEntry_tin (n : EntryIx) (x : Entry) : (s.setEntry n x).tin = s.tin := rfl
@[simp] theorem setEntry_lines (n : EntryIx) (x : Entry) : (s.setEntry n x).lines = s.lines := rfl
@[simp] theorem setEntry_rates (n : EntryIx) (x : Entry) : (s.setEntry n x).rates = s.rates := rfl
@[simp] theorem setEntry_heads (n : EntryIx) (x : Entry) : (s.setEntry n x).heads = s.heads := rfl
@[simp] theorem setEntry_chans (n : EntryIx) (x : Entry) : (s.setEntry n x).chans = s.chans := rfl
@[simp] theorem setEntry_arb (n : EntryIx) (x : Entry) : (s.setEntry n x).arb = s.arb := rfl
@[simp] theorem setEntry_link (n : EntryIx) (x : Entry) : (s.setEntry n x).link = s.link := rfl
@[simp] theorem setEntry_queue (n : EntryIx) (x : Entry) : (s.setEntry n x).queue = s.queue := rfl
@[simp] theorem setEntry_tb (n : EntryIx) (x : Entry) : (s.setEntry n x).tb = s.tb := rfl
@[simp] theorem setEntry_irq (n : EntryIx) (x : Entry) : (s.setEntry n x).irq = s.irq := rfl
@[simp] theorem setEntry_port (n : EntryIx) (x : Entry) : (s.setEntry n x).port = s.port := rfl
@[simp] theorem setEntry_choices (n : EntryIx) (x : Entry) : (s.setEntry n x).choices = s.choices := rfl
@[simp] theorem setEntry_pending (n : EntryIx) (x : Entry) : (s.setEntry n x).pending = s.pending := rfl

/-! ## raise -/

@[simp] theorem raise_table (b : Word) : (s.raise b).table = s.table := rfl
@[simp] theorem raise_buffer (b : Word) : (s.raise b).buffer = s.buffer := rfl
@[simp] theorem raise_tin (b : Word) : (s.raise b).tin = s.tin := rfl
@[simp] theorem raise_lines (b : Word) : (s.raise b).lines = s.lines := rfl
@[simp] theorem raise_rates (b : Word) : (s.raise b).rates = s.rates := rfl
@[simp] theorem raise_heads (b : Word) : (s.raise b).heads = s.heads := rfl
@[simp] theorem raise_chans (b : Word) : (s.raise b).chans = s.chans := rfl
@[simp] theorem raise_arb (b : Word) : (s.raise b).arb = s.arb := rfl
@[simp] theorem raise_link (b : Word) : (s.raise b).link = s.link := rfl
@[simp] theorem raise_queue (b : Word) : (s.raise b).queue = s.queue := rfl
@[simp] theorem raise_tb (b : Word) : (s.raise b).tb = s.tb := rfl
@[simp] theorem raise_port (b : Word) : (s.raise b).port = s.port := rfl
@[simp] theorem raise_choices (b : Word) : (s.raise b).choices = s.choices := rfl
@[simp] theorem raise_pending (b : Word) : (s.raise b).pending = s.pending := rfl

@[simp] theorem raise_irq (b : Word) : (s.raise b).irq = s.irq.raise b := rfl

/-! ## afterWrite -/

@[simp] theorem afterWrite_table (a : Addr) : (afterWrite a s).table = s.table := rfl
@[simp] theorem afterWrite_buffer (a : Addr) : (afterWrite a s).buffer = s.buffer := rfl
@[simp] theorem afterWrite_tin (a : Addr) : (afterWrite a s).tin = s.tin := rfl
@[simp] theorem afterWrite_lines (a : Addr) : (afterWrite a s).lines = s.lines := rfl
@[simp] theorem afterWrite_rates (a : Addr) : (afterWrite a s).rates = s.rates := rfl
@[simp] theorem afterWrite_heads (a : Addr) : (afterWrite a s).heads = s.heads := rfl
@[simp] theorem afterWrite_chans (a : Addr) : (afterWrite a s).chans = s.chans := rfl
@[simp] theorem afterWrite_arb (a : Addr) : (afterWrite a s).arb = s.arb := rfl
@[simp] theorem afterWrite_link (a : Addr) : (afterWrite a s).link = s.link := rfl
@[simp] theorem afterWrite_queue (a : Addr) : (afterWrite a s).queue = s.queue := rfl
@[simp] theorem afterWrite_tb (a : Addr) : (afterWrite a s).tb = s.tb := rfl
@[simp] theorem afterWrite_irq (a : Addr) : (afterWrite a s).irq = s.irq := rfl
@[simp] theorem afterWrite_choices (a : Addr) : (afterWrite a s).choices = s.choices := rfl
@[simp] theorem afterWrite_pending (a : Addr) : (afterWrite a s).pending = s.pending := rfl

/-! ## afterRead -/

@[simp] theorem afterRead_table (a : Addr) (w : Word) : (afterRead a w s).table = s.table := rfl
@[simp] theorem afterRead_buffer (a : Addr) (w : Word) : (afterRead a w s).buffer = s.buffer := rfl
@[simp] theorem afterRead_tin (a : Addr) (w : Word) : (afterRead a w s).tin = s.tin := rfl
@[simp] theorem afterRead_lines (a : Addr) (w : Word) : (afterRead a w s).lines = s.lines := rfl
@[simp] theorem afterRead_rates (a : Addr) (w : Word) : (afterRead a w s).rates = s.rates := rfl
@[simp] theorem afterRead_heads (a : Addr) (w : Word) : (afterRead a w s).heads = s.heads := rfl
@[simp] theorem afterRead_chans (a : Addr) (w : Word) : (afterRead a w s).chans = s.chans := rfl
@[simp] theorem afterRead_arb (a : Addr) (w : Word) : (afterRead a w s).arb = s.arb := rfl
@[simp] theorem afterRead_link (a : Addr) (w : Word) : (afterRead a w s).link = s.link := rfl
@[simp] theorem afterRead_queue (a : Addr) (w : Word) : (afterRead a w s).queue = s.queue := rfl
@[simp] theorem afterRead_tb (a : Addr) (w : Word) : (afterRead a w s).tb = s.tb := rfl
@[simp] theorem afterRead_irq (a : Addr) (w : Word) : (afterRead a w s).irq = s.irq := rfl
@[simp] theorem afterRead_choices (a : Addr) (w : Word) : (afterRead a w s).choices = s.choices := rfl
@[simp] theorem afterRead_pending (a : Addr) (w : Word) : (afterRead a w s).pending = s.pending := rfl

/-! ## captureHigh -/

@[simp] theorem captureHigh_table : (captureHigh s).table = s.table := rfl
@[simp] theorem captureHigh_buffer : (captureHigh s).buffer = s.buffer := rfl
@[simp] theorem captureHigh_tin : (captureHigh s).tin = s.tin := rfl
@[simp] theorem captureHigh_lines : (captureHigh s).lines = s.lines := rfl
@[simp] theorem captureHigh_rates : (captureHigh s).rates = s.rates := rfl
@[simp] theorem captureHigh_heads : (captureHigh s).heads = s.heads := rfl
@[simp] theorem captureHigh_chans : (captureHigh s).chans = s.chans := rfl
@[simp] theorem captureHigh_arb : (captureHigh s).arb = s.arb := rfl
@[simp] theorem captureHigh_link : (captureHigh s).link = s.link := rfl
@[simp] theorem captureHigh_queue : (captureHigh s).queue = s.queue := rfl
@[simp] theorem captureHigh_irq : (captureHigh s).irq = s.irq := rfl
@[simp] theorem captureHigh_port : (captureHigh s).port = s.port := rfl
@[simp] theorem captureHigh_choices : (captureHigh s).choices = s.choices := rfl
@[simp] theorem captureHigh_pending : (captureHigh s).pending = s.pending := rfl

/-! ## passMessage -/

@[simp] theorem passMessage_table (m : Message) : (passMessage m s).table = s.table := rfl
@[simp] theorem passMessage_buffer (m : Message) : (passMessage m s).buffer = s.buffer := rfl
@[simp] theorem passMessage_tin (m : Message) : (passMessage m s).tin = s.tin := rfl
@[simp] theorem passMessage_lines (m : Message) : (passMessage m s).lines = s.lines := rfl
@[simp] theorem passMessage_rates (m : Message) : (passMessage m s).rates = s.rates := rfl
@[simp] theorem passMessage_heads (m : Message) : (passMessage m s).heads = s.heads := rfl
@[simp] theorem passMessage_chans (m : Message) : (passMessage m s).chans = s.chans := rfl
@[simp] theorem passMessage_arb (m : Message) : (passMessage m s).arb = s.arb := rfl
@[simp] theorem passMessage_queue (m : Message) : (passMessage m s).queue = s.queue := rfl
@[simp] theorem passMessage_tb (m : Message) : (passMessage m s).tb = s.tb := rfl
@[simp] theorem passMessage_irq (m : Message) : (passMessage m s).irq = s.irq := rfl
@[simp] theorem passMessage_port (m : Message) : (passMessage m s).port = s.port := rfl
@[simp] theorem passMessage_choices (m : Message) : (passMessage m s).choices = s.choices := rfl
@[simp] theorem passMessage_pending (m : Message) : (passMessage m s).pending = s.pending := rfl

/-! ## writeThreshold -/

@[simp] theorem writeThreshold_table (w : Word) : (writeThreshold w s).table = s.table := rfl
@[simp] theorem writeThreshold_buffer (w : Word) : (writeThreshold w s).buffer = s.buffer := rfl
@[simp] theorem writeThreshold_tin (w : Word) : (writeThreshold w s).tin = s.tin := rfl
@[simp] theorem writeThreshold_lines (w : Word) : (writeThreshold w s).lines = s.lines := rfl
@[simp] theorem writeThreshold_rates (w : Word) : (writeThreshold w s).rates = s.rates := rfl
@[simp] theorem writeThreshold_heads (w : Word) : (writeThreshold w s).heads = s.heads := rfl
@[simp] theorem writeThreshold_chans (w : Word) : (writeThreshold w s).chans = s.chans := rfl
@[simp] theorem writeThreshold_arb (w : Word) : (writeThreshold w s).arb = s.arb := rfl
@[simp] theorem writeThreshold_link (w : Word) : (writeThreshold w s).link = s.link := rfl
@[simp] theorem writeThreshold_tb (w : Word) : (writeThreshold w s).tb = s.tb := rfl
@[simp] theorem writeThreshold_irq (w : Word) : (writeThreshold w s).irq = s.irq := rfl
@[simp] theorem writeThreshold_port (w : Word) : (writeThreshold w s).port = s.port := rfl
@[simp] theorem writeThreshold_choices (w : Word) : (writeThreshold w s).choices = s.choices := rfl
@[simp] theorem writeThreshold_pending (w : Word) : (writeThreshold w s).pending = s.pending := rfl

/-! ## leaveWaiters -/

@[simp] theorem leaveWaiters_table (h : HeadIx) : (leaveWaiters h s).table = s.table := rfl
@[simp] theorem leaveWaiters_buffer (h : HeadIx) : (leaveWaiters h s).buffer = s.buffer := rfl
@[simp] theorem leaveWaiters_tin (h : HeadIx) : (leaveWaiters h s).tin = s.tin := rfl
@[simp] theorem leaveWaiters_lines (h : HeadIx) : (leaveWaiters h s).lines = s.lines := rfl
@[simp] theorem leaveWaiters_rates (h : HeadIx) : (leaveWaiters h s).rates = s.rates := rfl
@[simp] theorem leaveWaiters_heads (h : HeadIx) : (leaveWaiters h s).heads = s.heads := rfl
@[simp] theorem leaveWaiters_arb (h : HeadIx) : (leaveWaiters h s).arb = s.arb := rfl
@[simp] theorem leaveWaiters_link (h : HeadIx) : (leaveWaiters h s).link = s.link := rfl
@[simp] theorem leaveWaiters_queue (h : HeadIx) : (leaveWaiters h s).queue = s.queue := rfl
@[simp] theorem leaveWaiters_tb (h : HeadIx) : (leaveWaiters h s).tb = s.tb := rfl
@[simp] theorem leaveWaiters_irq (h : HeadIx) : (leaveWaiters h s).irq = s.irq := rfl
@[simp] theorem leaveWaiters_port (h : HeadIx) : (leaveWaiters h s).port = s.port := rfl
@[simp] theorem leaveWaiters_choices (h : HeadIx) : (leaveWaiters h s).choices = s.choices := rfl
@[simp] theorem leaveWaiters_pending (h : HeadIx) : (leaveWaiters h s).pending = s.pending := rfl

/-! ## writeBuffer -/

@[simp] theorem writeBuffer_table (n : Fin 16) (w : Word) : (writeBuffer n w s).table = s.table := rfl
@[simp] theorem writeBuffer_tin (n : Fin 16) (w : Word) : (writeBuffer n w s).tin = s.tin := rfl
@[simp] theorem writeBuffer_lines (n : Fin 16) (w : Word) : (writeBuffer n w s).lines = s.lines := rfl
@[simp] theorem writeBuffer_rates (n : Fin 16) (w : Word) : (writeBuffer n w s).rates = s.rates := rfl
@[simp] theorem writeBuffer_heads (n : Fin 16) (w : Word) : (writeBuffer n w s).heads = s.heads := rfl
@[simp] theorem writeBuffer_chans (n : Fin 16) (w : Word) : (writeBuffer n w s).chans = s.chans := rfl
@[simp] theorem writeBuffer_arb (n : Fin 16) (w : Word) : (writeBuffer n w s).arb = s.arb := rfl
@[simp] theorem writeBuffer_link (n : Fin 16) (w : Word) : (writeBuffer n w s).link = s.link := rfl
@[simp] theorem writeBuffer_queue (n : Fin 16) (w : Word) : (writeBuffer n w s).queue = s.queue := rfl
@[simp] theorem writeBuffer_tb (n : Fin 16) (w : Word) : (writeBuffer n w s).tb = s.tb := rfl
@[simp] theorem writeBuffer_irq (n : Fin 16) (w : Word) : (writeBuffer n w s).irq = s.irq := rfl
@[simp] theorem writeBuffer_port (n : Fin 16) (w : Word) : (writeBuffer n w s).port = s.port := rfl
@[simp] theorem writeBuffer_choices (n : Fin 16) (w : Word) : (writeBuffer n w s).choices = s.choices := rfl
@[simp] theorem writeBuffer_pending (n : Fin 16) (w : Word) : (writeBuffer n w s).pending = s.pending := rfl

/-! ## advancePos -/

@[simp] theorem advancePos_table : (advancePos s).table = s.table := rfl
@[simp] theorem advancePos_buffer : (advancePos s).buffer = s.buffer := rfl
@[simp] theorem advancePos_tin : (advancePos s).tin = s.tin := rfl
@[simp] theorem advancePos_lines : (advancePos s).lines = s.lines := rfl
@[simp] theorem advancePos_rates : (advancePos s).rates = s.rates := rfl
@[simp] theorem advancePos_heads : (advancePos s).heads = s.heads := rfl
@[simp] theorem advancePos_chans : (advancePos s).chans = s.chans := rfl
@[simp] theorem advancePos_arb : (advancePos s).arb = s.arb := rfl
@[simp] theorem advancePos_link : (advancePos s).link = s.link := rfl
@[simp] theorem advancePos_queue : (advancePos s).queue = s.queue := rfl
@[simp] theorem advancePos_tb : (advancePos s).tb = s.tb := rfl
@[simp] theorem advancePos_irq : (advancePos s).irq = s.irq := rfl
@[simp] theorem advancePos_choices : (advancePos s).choices = s.choices := rfl
@[simp] theorem advancePos_pending : (advancePos s).pending = s.pending := rfl

/-! ## takeQueueWord -/

@[simp] theorem takeQueueWord_table : (takeQueueWord s).table = s.table := rfl
@[simp] theorem takeQueueWord_buffer : (takeQueueWord s).buffer = s.buffer := rfl
@[simp] theorem takeQueueWord_tin : (takeQueueWord s).tin = s.tin := rfl
@[simp] theorem takeQueueWord_lines : (takeQueueWord s).lines = s.lines := rfl
@[simp] theorem takeQueueWord_rates : (takeQueueWord s).rates = s.rates := rfl
@[simp] theorem takeQueueWord_heads : (takeQueueWord s).heads = s.heads := rfl
@[simp] theorem takeQueueWord_chans : (takeQueueWord s).chans = s.chans := rfl
@[simp] theorem takeQueueWord_arb : (takeQueueWord s).arb = s.arb := rfl
@[simp] theorem takeQueueWord_link : (takeQueueWord s).link = s.link := rfl
@[simp] theorem takeQueueWord_tb : (takeQueueWord s).tb = s.tb := rfl
@[simp] theorem takeQueueWord_irq : (takeQueueWord s).irq = s.irq := rfl
@[simp] theorem takeQueueWord_port : (takeQueueWord s).port = s.port := rfl
@[simp] theorem takeQueueWord_choices : (takeQueueWord s).choices = s.choices := rfl
@[simp] theorem takeQueueWord_pending : (takeQueueWord s).pending = s.pending := rfl

@[simp] theorem passMessage_link (m : Message) : (passMessage m s).link = s.link.pass m := rfl

/-! ## head -/

@[simp] theorem head_setHead_self (h : HeadIx) (x : Head) : (s.setHead h x).head h = x := by
  simp [State.head, State.setHead]

@[simp] theorem head_setHead_ne {h k : HeadIx} (hk : k ≠ h) (x : Head) : (s.setHead h x).head k = s.head k := by
  simp only [State.head, State.setHead]
  exact Vector.getElem_set_ne _ _ (fun e => hk (Fin.ext e.symm))

theorem head_setHead (h k : HeadIx) (x : Head) : (s.setHead h x).head k = if k = h then x else s.head k := by
  split
  · subst_vars; simp
  · simp [*]

@[simp] theorem setHead_head (h : HeadIx) : s.setHead h (s.head h) = s := by
  simp [State.head, State.setHead]

@[simp] theorem setHead_setHead (h : HeadIx) (x y : Head) : (s.setHead h x).setHead h y = s.setHead h y := by
  simp [State.setHead]

/-- Equal heads, read by read. -/
theorem heads_ext {s t : State} (e : ∀ h : HeadIx, s.head h = t.head h) : s.heads = t.heads := by
  apply Vector.ext
  intro i hi
  exact e ⟨i, hi⟩

@[simp] theorem head_setLine (k : HeadIx) (i : LineIx) (x : Line) : (s.setLine i x).head k = s.head k := rfl
@[simp] theorem head_setRate (k : HeadIx) (i : RateIx) (x : RateGen) : (s.setRate i x).head k = s.head k := rfl
@[simp] theorem head_setChan (k : HeadIx) (i : ChanIx) (x : Channel) : (s.setChan i x).head k = s.head k := rfl
@[simp] theorem head_setEntry (k : HeadIx) (i : EntryIx) (x : Entry) : (s.setEntry i x).head k = s.head k := rfl
@[simp] theorem head_raise (k : HeadIx) (b : Word) : (s.raise b).head k = s.head k := rfl
@[simp] theorem head_afterWrite (k : HeadIx) (a : Addr) : (afterWrite a s).head k = s.head k := rfl
@[simp] theorem head_afterRead (k : HeadIx) (a : Addr) (w : Word) : (afterRead a w s).head k = s.head k := rfl
@[simp] theorem head_captureHigh (k : HeadIx) : (captureHigh s).head k = s.head k := rfl
@[simp] theorem head_passMessage (k : HeadIx) (m : Message) : (passMessage m s).head k = s.head k := rfl
@[simp] theorem head_writeThreshold (k : HeadIx) (w : Word) : (writeThreshold w s).head k = s.head k := rfl
@[simp] theorem head_leaveWaiters (k : HeadIx) (h : HeadIx) : (leaveWaiters h s).head k = s.head k := rfl
@[simp] theorem head_writeBuffer (k : HeadIx) (n : Fin 16) (w : Word) : (writeBuffer n w s).head k = s.head k := rfl
@[simp] theorem head_advancePos (k : HeadIx) : (advancePos s).head k = s.head k := rfl
@[simp] theorem head_takeQueueWord (k : HeadIx) : (takeQueueWord s).head k = s.head k := rfl
/-- A state written out with the heads of s has the reads of s. -/
@[simp] theorem head_mk_heads (a0 a1 a2 a3 a4 a6 a7 a8 a9 a10 a11 a12 a13 a14) (h : HeadIx) :
    State.head ⟨a0, a1, a2, a3, a4, s.heads, a6, a7, a8, a9, a10, a11, a12, a13, a14⟩ h = s.head h := rfl

/-! ## line -/

@[simp] theorem line_setLine_self (n : LineIx) (x : Line) : (s.setLine n x).line n = x := by
  simp [State.line, State.setLine]

@[simp] theorem line_setLine_ne {n k : LineIx} (hk : k ≠ n) (x : Line) : (s.setLine n x).line k = s.line k := by
  simp only [State.line, State.setLine]
  exact Vector.getElem_set_ne _ _ (fun e => hk (Fin.ext e.symm))

theorem line_setLine (n k : LineIx) (x : Line) : (s.setLine n x).line k = if k = n then x else s.line k := by
  split
  · subst_vars; simp
  · simp [*]

@[simp] theorem setLine_line (n : LineIx) : s.setLine n (s.line n) = s := by
  simp [State.line, State.setLine]

@[simp] theorem setLine_setLine (n : LineIx) (x y : Line) : (s.setLine n x).setLine n y = s.setLine n y := by
  simp [State.setLine]

/-- Equal lines, read by read. -/
theorem lines_ext {s t : State} (e : ∀ n : LineIx, s.line n = t.line n) : s.lines = t.lines := by
  apply Vector.ext
  intro i hi
  exact e ⟨i, hi⟩

@[simp] theorem line_setHead (k : LineIx) (i : HeadIx) (x : Head) : (s.setHead i x).line k = s.line k := rfl
@[simp] theorem line_setRate (k : LineIx) (i : RateIx) (x : RateGen) : (s.setRate i x).line k = s.line k := rfl
@[simp] theorem line_setChan (k : LineIx) (i : ChanIx) (x : Channel) : (s.setChan i x).line k = s.line k := rfl
@[simp] theorem line_setEntry (k : LineIx) (i : EntryIx) (x : Entry) : (s.setEntry i x).line k = s.line k := rfl
@[simp] theorem line_raise (k : LineIx) (b : Word) : (s.raise b).line k = s.line k := rfl
@[simp] theorem line_afterWrite (k : LineIx) (a : Addr) : (afterWrite a s).line k = s.line k := rfl
@[simp] theorem line_afterRead (k : LineIx) (a : Addr) (w : Word) : (afterRead a w s).line k = s.line k := rfl
@[simp] theorem line_captureHigh (k : LineIx) : (captureHigh s).line k = s.line k := rfl
@[simp] theorem line_passMessage (k : LineIx) (m : Message) : (passMessage m s).line k = s.line k := rfl
@[simp] theorem line_writeThreshold (k : LineIx) (w : Word) : (writeThreshold w s).line k = s.line k := rfl
@[simp] theorem line_leaveWaiters (k : LineIx) (h : HeadIx) : (leaveWaiters h s).line k = s.line k := rfl
@[simp] theorem line_writeBuffer (k : LineIx) (n : Fin 16) (w : Word) : (writeBuffer n w s).line k = s.line k := rfl
@[simp] theorem line_advancePos (k : LineIx) : (advancePos s).line k = s.line k := rfl
@[simp] theorem line_takeQueueWord (k : LineIx) : (takeQueueWord s).line k = s.line k := rfl
/-- A state written out with the lines of s has the reads of s. -/
@[simp] theorem line_mk_lines (a0 a1 a2 a4 a5 a6 a7 a8 a9 a10 a11 a12 a13 a14) (n : LineIx) :
    State.line ⟨a0, a1, a2, s.lines, a4, a5, a6, a7, a8, a9, a10, a11, a12, a13, a14⟩ n = s.line n := rfl

/-! ## rate -/

@[simp] theorem rate_setRate_self (g : RateIx) (x : RateGen) : (s.setRate g x).rate g = x := by
  simp [State.rate, State.setRate]

@[simp] theorem rate_setRate_ne {g k : RateIx} (hk : k ≠ g) (x : RateGen) : (s.setRate g x).rate k = s.rate k := by
  simp only [State.rate, State.setRate]
  exact Vector.getElem_set_ne _ _ (fun e => hk (Fin.ext e.symm))

theorem rate_setRate (g k : RateIx) (x : RateGen) : (s.setRate g x).rate k = if k = g then x else s.rate k := by
  split
  · subst_vars; simp
  · simp [*]

@[simp] theorem setRate_rate (g : RateIx) : s.setRate g (s.rate g) = s := by
  simp [State.rate, State.setRate]

@[simp] theorem setRate_setRate (g : RateIx) (x y : RateGen) : (s.setRate g x).setRate g y = s.setRate g y := by
  simp [State.setRate]

/-- Equal rates, read by read. -/
theorem rates_ext {s t : State} (e : ∀ g : RateIx, s.rate g = t.rate g) : s.rates = t.rates := by
  apply Vector.ext
  intro i hi
  exact e ⟨i, hi⟩

@[simp] theorem rate_setHead (k : RateIx) (i : HeadIx) (x : Head) : (s.setHead i x).rate k = s.rate k := rfl
@[simp] theorem rate_setLine (k : RateIx) (i : LineIx) (x : Line) : (s.setLine i x).rate k = s.rate k := rfl
@[simp] theorem rate_setChan (k : RateIx) (i : ChanIx) (x : Channel) : (s.setChan i x).rate k = s.rate k := rfl
@[simp] theorem rate_setEntry (k : RateIx) (i : EntryIx) (x : Entry) : (s.setEntry i x).rate k = s.rate k := rfl
@[simp] theorem rate_raise (k : RateIx) (b : Word) : (s.raise b).rate k = s.rate k := rfl
@[simp] theorem rate_afterWrite (k : RateIx) (a : Addr) : (afterWrite a s).rate k = s.rate k := rfl
@[simp] theorem rate_afterRead (k : RateIx) (a : Addr) (w : Word) : (afterRead a w s).rate k = s.rate k := rfl
@[simp] theorem rate_captureHigh (k : RateIx) : (captureHigh s).rate k = s.rate k := rfl
@[simp] theorem rate_passMessage (k : RateIx) (m : Message) : (passMessage m s).rate k = s.rate k := rfl
@[simp] theorem rate_writeThreshold (k : RateIx) (w : Word) : (writeThreshold w s).rate k = s.rate k := rfl
@[simp] theorem rate_leaveWaiters (k : RateIx) (h : HeadIx) : (leaveWaiters h s).rate k = s.rate k := rfl
@[simp] theorem rate_writeBuffer (k : RateIx) (n : Fin 16) (w : Word) : (writeBuffer n w s).rate k = s.rate k := rfl
@[simp] theorem rate_advancePos (k : RateIx) : (advancePos s).rate k = s.rate k := rfl
@[simp] theorem rate_takeQueueWord (k : RateIx) : (takeQueueWord s).rate k = s.rate k := rfl
/-- A state written out with the rates of s has the reads of s. -/
@[simp] theorem rate_mk_rates (a0 a1 a2 a3 a5 a6 a7 a8 a9 a10 a11 a12 a13 a14) (g : RateIx) :
    State.rate ⟨a0, a1, a2, a3, s.rates, a5, a6, a7, a8, a9, a10, a11, a12, a13, a14⟩ g = s.rate g := rfl

/-! ## chan -/

@[simp] theorem chan_setChan_self (n : ChanIx) (x : Channel) : (s.setChan n x).chan n = x := by
  simp [State.chan, State.setChan]

@[simp] theorem chan_setChan_ne {n k : ChanIx} (hk : k ≠ n) (x : Channel) : (s.setChan n x).chan k = s.chan k := by
  simp only [State.chan, State.setChan]
  exact Vector.getElem_set_ne _ _ (fun e => hk (Fin.ext e.symm))

theorem chan_setChan (n k : ChanIx) (x : Channel) : (s.setChan n x).chan k = if k = n then x else s.chan k := by
  split
  · subst_vars; simp
  · simp [*]

@[simp] theorem setChan_chan (n : ChanIx) : s.setChan n (s.chan n) = s := by
  simp [State.chan, State.setChan]

@[simp] theorem setChan_setChan (n : ChanIx) (x y : Channel) : (s.setChan n x).setChan n y = s.setChan n y := by
  simp [State.setChan]

/-- Equal chans, read by read. -/
theorem chans_ext {s t : State} (e : ∀ n : ChanIx, s.chan n = t.chan n) : s.chans = t.chans := by
  apply Vector.ext
  intro i hi
  exact e ⟨i, hi⟩

@[simp] theorem chan_setHead (k : ChanIx) (i : HeadIx) (x : Head) : (s.setHead i x).chan k = s.chan k := rfl
@[simp] theorem chan_setLine (k : ChanIx) (i : LineIx) (x : Line) : (s.setLine i x).chan k = s.chan k := rfl
@[simp] theorem chan_setRate (k : ChanIx) (i : RateIx) (x : RateGen) : (s.setRate i x).chan k = s.chan k := rfl
@[simp] theorem chan_setEntry (k : ChanIx) (i : EntryIx) (x : Entry) : (s.setEntry i x).chan k = s.chan k := rfl
@[simp] theorem chan_raise (k : ChanIx) (b : Word) : (s.raise b).chan k = s.chan k := rfl
@[simp] theorem chan_afterWrite (k : ChanIx) (a : Addr) : (afterWrite a s).chan k = s.chan k := rfl
@[simp] theorem chan_afterRead (k : ChanIx) (a : Addr) (w : Word) : (afterRead a w s).chan k = s.chan k := rfl
@[simp] theorem chan_captureHigh (k : ChanIx) : (captureHigh s).chan k = s.chan k := rfl
@[simp] theorem chan_passMessage (k : ChanIx) (m : Message) : (passMessage m s).chan k = s.chan k := rfl
@[simp] theorem chan_writeThreshold (k : ChanIx) (w : Word) : (writeThreshold w s).chan k = s.chan k := rfl
@[simp] theorem chan_writeBuffer (k : ChanIx) (n : Fin 16) (w : Word) : (writeBuffer n w s).chan k = s.chan k := rfl
@[simp] theorem chan_advancePos (k : ChanIx) : (advancePos s).chan k = s.chan k := rfl
@[simp] theorem chan_takeQueueWord (k : ChanIx) : (takeQueueWord s).chan k = s.chan k := rfl
/-- A state written out with the chans of s has the reads of s. -/
@[simp] theorem chan_mk_chans (a0 a1 a2 a3 a4 a5 a7 a8 a9 a10 a11 a12 a13 a14) (n : ChanIx) :
    State.chan ⟨a0, a1, a2, a3, a4, a5, s.chans, a7, a8, a9, a10, a11, a12, a13, a14⟩ n = s.chan n := rfl

/-! ## entry -/

@[simp] theorem entry_setEntry_self (n : EntryIx) (x : Entry) : (s.setEntry n x).entry n = x := by
  simp [State.entry, State.setEntry]

@[simp] theorem entry_setEntry_ne {n k : EntryIx} (hk : k ≠ n) (x : Entry) : (s.setEntry n x).entry k = s.entry k := by
  simp only [State.entry, State.setEntry]
  exact Vector.getElem_set_ne _ _ (fun e => hk (Fin.ext e.symm))

theorem entry_setEntry (n k : EntryIx) (x : Entry) : (s.setEntry n x).entry k = if k = n then x else s.entry k := by
  split
  · subst_vars; simp
  · simp [*]

@[simp] theorem setEntry_entry (n : EntryIx) : s.setEntry n (s.entry n) = s := by
  simp [State.entry, State.setEntry]

@[simp] theorem setEntry_setEntry (n : EntryIx) (x y : Entry) : (s.setEntry n x).setEntry n y = s.setEntry n y := by
  simp [State.setEntry]

/-- Equal table, read by read. -/
theorem table_ext {s t : State} (e : ∀ n : EntryIx, s.entry n = t.entry n) : s.table = t.table := by
  apply Vector.ext
  intro i hi
  exact e ⟨i, hi⟩

@[simp] theorem entry_setHead (k : EntryIx) (i : HeadIx) (x : Head) : (s.setHead i x).entry k = s.entry k := rfl
@[simp] theorem entry_setLine (k : EntryIx) (i : LineIx) (x : Line) : (s.setLine i x).entry k = s.entry k := rfl
@[simp] theorem entry_setRate (k : EntryIx) (i : RateIx) (x : RateGen) : (s.setRate i x).entry k = s.entry k := rfl
@[simp] theorem entry_setChan (k : EntryIx) (i : ChanIx) (x : Channel) : (s.setChan i x).entry k = s.entry k := rfl
@[simp] theorem entry_raise (k : EntryIx) (b : Word) : (s.raise b).entry k = s.entry k := rfl
@[simp] theorem entry_afterWrite (k : EntryIx) (a : Addr) : (afterWrite a s).entry k = s.entry k := rfl
@[simp] theorem entry_afterRead (k : EntryIx) (a : Addr) (w : Word) : (afterRead a w s).entry k = s.entry k := rfl
@[simp] theorem entry_captureHigh (k : EntryIx) : (captureHigh s).entry k = s.entry k := rfl
@[simp] theorem entry_passMessage (k : EntryIx) (m : Message) : (passMessage m s).entry k = s.entry k := rfl
@[simp] theorem entry_writeThreshold (k : EntryIx) (w : Word) : (writeThreshold w s).entry k = s.entry k := rfl
@[simp] theorem entry_leaveWaiters (k : EntryIx) (h : HeadIx) : (leaveWaiters h s).entry k = s.entry k := rfl
@[simp] theorem entry_writeBuffer (k : EntryIx) (n : Fin 16) (w : Word) : (writeBuffer n w s).entry k = s.entry k := rfl
@[simp] theorem entry_advancePos (k : EntryIx) : (advancePos s).entry k = s.entry k := rfl
@[simp] theorem entry_takeQueueWord (k : EntryIx) : (takeQueueWord s).entry k = s.entry k := rfl
/-- A state written out with the table of s has the reads of s. -/
@[simp] theorem entry_mk_table (a1 a2 a3 a4 a5 a6 a7 a8 a9 a10 a11 a12 a13 a14) (n : EntryIx) :
    State.entry ⟨s.table, a1, a2, a3, a4, a5, a6, a7, a8, a9, a10, a11, a12, a13, a14⟩ n = s.entry n := rfl

@[simp] theorem chan_leaveWaiters (h : HeadIx) (n : ChanIx) : (leaveWaiters h s).chan n
    = { s.chan n with waiters := (s.chan n).waiters.filter fun w => decide (w ≠ h) } := by
  simp [State.chan, leaveWaiters]

@[simp] theorem head_tickEnd (h : HeadIx) : (tickEnd s).head h = (s.head h).tick := by
  simp [State.head, tickEnd]

@[simp] theorem line_tickEnd (n : LineIx) : (tickEnd s).line n = (s.line n).tick := by
  simp [State.line, tickEnd]

@[simp] theorem rate_tickEnd (g : RateIx) : (tickEnd s).rate g = (s.rate g).tick := by
  simp [State.rate, tickEnd]

@[simp] theorem head_softReset (h : HeadIx) : (softReset s).head h = (s.head h).afterReset := by
  simp [State.head, softReset]

@[simp] theorem chan_softReset (n : ChanIx) : (softReset s).chan n = (s.chan n).softReset := by
  simp [State.chan, softReset]

@[simp] theorem rate_softReset (g : RateIx) : (softReset s).rate g = (s.rate g).softReset := by
  simp [State.rate, softReset]

@[simp] theorem line_softReset (n : LineIx) : (softReset s).line n = (s.line n).softReset (s.pin n) := by
  simp [State.line, State.pin, softReset]

end Sys2Proof.Machine
end

