-- ==== Sys2Proof/Laws/Ops.lean ====
section
/-! SUPPORT. What each shared operation can change, once over: a lemma `<op>_frame` says that the operation's answer is
the state before with the named blocks replaced, so that every other block, the waiting commands among them, is untouched.
Beside them, the exact answers of the operations that the statements cite. -/

namespace Sys2Proof.Machine

variable (s : State) (h : HeadIx)

/-! ## Arguments -/

variable {s h} in
theorem headArg_eq {arg : Word} (e : arg.toNat = h.val) : headArg arg = some h := by
  simp only [headArg, e]; rw [dif_pos h.isLt]

theorem headArg_above {arg : Word} (e : 3 < arg.toNat) : headArg arg = none := by
  simp only [headArg]; rw [dif_neg (by omega)]

theorem entryArg_eq {arg : Word} {n : EntryIx} (e : arg.toNat = n.val) : entryArg arg = some n := by
  simp only [entryArg, e]; rw [dif_pos n.isLt]

theorem entryArg_above {arg : Word} (e : 31 < arg.toNat) : entryArg arg = none := by
  simp only [entryArg]; rw [dif_neg (by omega)]

/-! ## Records -/

theorem offer_frame (body : Body) : ∃ hd q i,
    offer h body s = { s.setHead h hd with queue := q, irq := i } := by
  simp only [offer]; split <;> exact ⟨_, _, _, rfl⟩

/-- The head after an offering keeps all but its record marks. -/
theorem offer_head_frame (body : Body) : ∃ lost restart,
    (offer h body s).head h = { s.head h with seq := (s.head h).seq + 1, lost := lost, restart := restart } := by
  simp only [offer]; split
  · exact ⟨0, false, by simp⟩
  · exact ⟨satInc (s.head h).lost, (s.head h).restart, by simp⟩

@[simp] theorem offer_head_ne {k : HeadIx} (hk : k ≠ h) (body : Body) : (offer h body s).head k = s.head k := by
  simp only [offer]; split <;> simp [hk]

theorem dropTrigger_frame (r : DropReason) (src : Option Source) (time : Stamp) : ∃ hd q i,
    dropTrigger h r src time s = { s.setHead h hd with queue := q, irq := i } := by
  simp only [dropTrigger]; split
  · obtain ⟨hd, q, i, e⟩ := offer_frame ((s.modHead h fun hd => { hd with drops := satInc hd.drops }).raise dropBit) h
      (.drop r src (if wantsTime ((s.modHead h fun hd => { hd with drops := satInc hd.drops }).raise
        dropBit |>.head h).ctx.prog.fields then some time else none))
    exact ⟨hd, q, i, e.trans (by simp [State.setHead])⟩
  · exact ⟨_, _, _, rfl⟩

/-! ## Exposure starts and strobe channels -/

/-- An exposure start needs a pending start, and changes that head alone. -/
theorem startExposure_some {p : PendingStart} (e : (s.head h).ctx.pendingStart = some p) (locked : Bool) :
    startExposure h locked s = s.setHead h ((s.head h).startExposure s.now p locked) := by
  simp only [startExposure, e]; rfl

theorem startExposure_none (e : (s.head h).ctx.pendingStart = none) (locked : Bool) :
    startExposure h locked s = s := by
  simp only [startExposure, e]

theorem startExposure_frame (locked : Bool) : ∃ hd, startExposure h locked s = s.setHead h hd := by
  simp only [startExposure]; split
  · exact ⟨_, rfl⟩
  · exact ⟨s.head h, by simp⟩

@[simp] theorem Head.startExposure_slot (hd : Head) (now : Stamp) (p : PendingStart) (locked : Bool) :
    (hd.startExposure now p locked).slot = hd.slot := by
  show (hd.openGroup now p).slot = hd.slot
  simp only [Head.openGroup]; split <;> rfl

/-- An exposure start leaves every slot. -/
@[simp] theorem startExposure_slot (locked : Bool) (k : HeadIx) :
    ((startExposure h locked s).head k).slot = (s.head k).slot := by
  simp only [startExposure]; split
  · by_cases e : k = h
    · subst e; simp
    · simp [e]
  · rfl

theorem releaseAt_frame (n : ChanIx) : ∃ hs cs, releaseAt n s = { s with heads := hs, chans := cs } := by
  simp only [releaseAt]; split
  · rename_i w ws _
    obtain ⟨hd, e⟩ := startExposure_frame (s.setChan n { s.chan n with holder := some w, waiters := ws }) w true
    exact ⟨_, _, e⟩
  · exact ⟨s.heads, _, rfl⟩

theorem releaseStrobe_frame : ∃ hs cs, releaseStrobe h s = { s with heads := hs, chans := cs } := by
  simp only [releaseStrobe]; split
  · exact releaseAt_frame s _
  · exact ⟨s.heads, s.chans, rfl⟩

/-- A release leaves every slot, so that the classes of the waiting requests stand over it. -/
@[simp] theorem releaseStrobe_slot (k : HeadIx) : ((releaseStrobe h s).head k).slot = (s.head k).slot := by
  simp only [releaseStrobe, releaseAt]; repeat' split
  · exact startExposure_slot _ _ _ _
  · rfl
  · rfl

theorem leaveWaiters_frame : ∃ cs, leaveWaiters h s = { s with chans := cs } := ⟨_, rfl⟩

theorem claim_frame (n : ChanIx) : ∃ hd cs, claim h n s = { s.setHead h hd with chans := cs } := by
  simp only [claim]; split
  · obtain ⟨hd, e⟩ := startExposure_frame s h false
    exact ⟨hd, s.chans, e⟩
  split
  · obtain ⟨hd, e⟩ := startExposure_frame (s.setChan n { s.chan n with holder := some h }) h true
    exact ⟨hd, _, e⟩
  split
  · obtain ⟨hd, e⟩ := startExposure_frame s h false
    exact ⟨hd, s.chans, e⟩
  · exact ⟨_, _, rfl⟩

theorem attemptStart_frame : ∃ hd cs, attemptStart h s = { s.setHead h hd with chans := cs } := by
  simp only [attemptStart]; split
  · obtain ⟨hd, e⟩ := startExposure_frame s h false
    exact ⟨hd, s.chans, e⟩
  · exact claim_frame s h _

theorem pacedAttempt_frame (n : Word) (t : Stamp) : ∃ hd cs,
    pacedAttempt h n t s = { s.setHead h hd with chans := cs } := by
  simp only [pacedAttempt, modHead_eq_setHead]
  obtain ⟨hd, cs, e⟩ := attemptStart_frame (s.setHead h _) h
  exact ⟨hd, cs, e.trans (by rw [setHead_setHead])⟩

theorem enterPacing_frame : ∃ hd cs, enterPacing h s = { s.setHead h hd with chans := cs } := by
  simp only [enterPacing, modHead_eq_setHead]
  split
  · obtain ⟨hd, cs, e⟩ := pacedAttempt_frame (s.setHead h _) h _ _
    exact ⟨hd, cs, e.trans (by rw [setHead_setHead])⟩
  · exact ⟨_, s.chans, rfl⟩
  · exact ⟨_, s.chans, rfl⟩

theorem acceptStart_frame (p : PendingStart) (src : Source) : ∃ hd cs,
    acceptStart h p src s = { s.setHead h hd with chans := cs } := by
  simp only [acceptStart, modHead_eq_setHead]; split
  · obtain ⟨hd, cs, e⟩ := attemptStart_frame (s.setHead h _) h
    exact ⟨hd, cs, e.trans (by rw [setHead_setHead])⟩
  · exact ⟨_, s.chans, by rw [setHead_setHead]; rfl⟩

/-! ## Bursts and groups -/

/-- SPAN grows by the length, up to its bound (R57). -/
theorem addSpan_eq_min (span : Stamp) (len : Nat) :
    addSpan span len = BitVec.ofNat 32 (min (span.toNat + len) 4294967295) := by
  simp only [addSpan]; split
  · rw [Nat.min_eq_left (by omega)]
  · rw [Nat.min_eq_right (by omega)]; rfl

theorem enterDraining_frame : ∃ hd i, enterDraining h s = { s.setHead h hd with irq := i } := by
  simp only [enterDraining, modHead_eq_setHead, head_setHead_self]
  repeat' split
  all_goals exact ⟨_, _, rfl⟩

theorem chainTo_frame (n : EntryIx) : ∃ hd q i, chainTo h n s = { s.setHead h hd with queue := q, irq := i } := by
  simp only [chainTo, modHead_eq_setHead]; split
  · obtain ⟨hd, q, i, e⟩ := offer_frame s h (.burstEnd .linkInvalid (some _) (s.head h).ctx.progIndex (some n))
    obtain ⟨hd', i', e'⟩ := enterDraining_frame { s.setHead h hd with queue := q, irq := i } h
    exact ⟨hd', q, i', by rw [e, e']; simp [State.setHead]⟩
  · obtain ⟨hd, q, i, e⟩ := offer_frame (s.setHead h _) h (.burstEnd .complete none (s.head h).ctx.progIndex (some n))
    exact ⟨hd, q, i, e.trans (by rw [setHead_setHead])⟩

theorem decideBurst_frame : ∃ hd cs q i,
    decideBurst h s = { s.setHead h hd with chans := cs, queue := q, irq := i } := by
  have drain (b : Body) : ∃ hd cs q i,
      enterDraining h (offer h b s) = { s.setHead h hd with chans := cs, queue := q, irq := i } := by
    obtain ⟨hd, q, i, e⟩ := offer_frame s h b
    obtain ⟨hd', i', e'⟩ := enterDraining_frame { s.setHead h hd with queue := q, irq := i } h
    exact ⟨hd', s.chans, q, i', by rw [e, e']; simp [State.setHead]⟩
  simp only [decideBurst, modHead_eq_setHead]; split
  · exact drain _
  split
  · split
    · obtain ⟨hd, q, i, e⟩ := chainTo_frame s h _
      exact ⟨hd, s.chans, q, i, e⟩
    · exact drain _
  split
  · exact ⟨_, s.chans, s.queue, s.irq, rfl⟩
  · exact ⟨_, s.chans, s.queue, s.irq, rfl⟩
  · obtain ⟨hd, cs, e⟩ := enterPacing_frame s h
    exact ⟨hd, cs, s.queue, s.irq, e⟩

theorem endExposure_frame : ∃ hs cs, endExposure h s = { s with heads := hs, chans := cs } := by
  obtain ⟨hs, cs, e⟩ := releaseStrobe_frame s h
  simp only [endExposure, modHead_eq_setHead, e]
  exact ⟨_, cs, rfl⟩

theorem completeGroup_frame : ∃ hs cs a q i,
    completeGroup h s = { s with heads := hs, chans := cs, arb := a, queue := q, irq := i } := by
  simp only [completeGroup, modHead_eq_setHead]; split
  · exact ⟨s.heads, s.chans, s.arb, s.queue, s.irq, rfl⟩
  · obtain ⟨hd, cs, q, i, e⟩ := decideBurst_frame { s.setHead h _ with arb := _ } h
    exact ⟨_, cs, _, q, i, e⟩

theorem endCondition_frame (overrun : Bool) : ∃ hs cs a q i,
    endCondition h overrun s = { s with heads := hs, chans := cs, arb := a, queue := q, irq := i } := by
  simp only [endCondition]
  generalize e : s.modHead h _ = t
  obtain ⟨hs₀, rfl⟩ : ∃ hs, t = { s with heads := hs } := ⟨_, e.symm⟩
  split
  · split
    · obtain ⟨hs, cs, e⟩ := endExposure_frame { s with heads := hs₀ } h
      obtain ⟨hs', cs', a, q, i, e'⟩ := completeGroup_frame { s with heads := hs, chans := cs } h
      exact ⟨hs', cs', a, q, i, by rw [e, e']⟩
    · exact ⟨_, s.chans, s.arb, s.queue, s.irq, rfl⟩
  · obtain ⟨hs, cs, e⟩ := endExposure_frame { s with heads := hs₀ } h
    rw [e]; split
    · exact ⟨_, cs, s.arb, s.queue, s.irq, rfl⟩
    · generalize e : State.modHead _ h _ = t
      obtain ⟨hd, cs', e'⟩ := enterPacing_frame t h
      rw [e', ← e]; exact ⟨_, cs', s.arb, s.queue, s.irq, rfl⟩

/-! ## Teardown, faults, resets -/

theorem teardown_frame : ∃ hs cs, teardown h s = { s with heads := hs, chans := cs } := by
  obtain ⟨hs, cs, e⟩ := releaseStrobe_frame s h
  simp only [teardown, modHead_eq_setHead, e]
  exact ⟨_, _, rfl⟩

theorem headFault_frame (code : FaultCode) : ∃ hs cs q i,
    headFault h code s = { s with heads := hs, chans := cs, queue := q, irq := i } := by
  obtain ⟨hs, cs, e⟩ := teardown_frame s h
  simp only [headFault, modHead_eq_setHead, e]
  obtain ⟨hd, q, i, e'⟩ := offer_frame { s with heads := hs, chans := cs } h (.fault code (s.head h).discarded s.now)
  rw [e']; exact ⟨_, cs, q, _, rfl⟩

theorem resetSlot_frame : ∃ hs a l, resetSlot h s = { s with heads := hs, arb := a, link := l } := by
  simp only [resetSlot]; split
  · exact ⟨s.heads, s.arb, s.link, rfl⟩
  · exact ⟨_, _, s.link, rfl⟩
  · simp only [cancelReadout]; split
    · split
      · exact ⟨_, _, _, rfl⟩
      · exact ⟨s.heads, s.arb, s.link, rfl⟩
    · exact ⟨s.heads, s.arb, s.link, rfl⟩

theorem headReset_frame : ∃ hs cs a l,
    headReset h s = { s with heads := hs, chans := cs, arb := a, link := l } := by
  obtain ⟨hs, cs, e⟩ := teardown_frame s h
  obtain ⟨hs', a, l, e'⟩ := resetSlot_frame { s with heads := hs, chans := cs } h
  simp only [headReset, modHead_eq_setHead, e, e']
  exact ⟨_, cs, a, l, rfl⟩

theorem setHeadEnable_frame (on : Bool) : ∃ hs cs a l,
    setHeadEnable h on s = { s with heads := hs, chans := cs, arb := a, link := l } := by
  simp only [setHeadEnable, enableHead, disableHead, modHead_eq_setHead]; split <;> split
  · exact ⟨s.heads, s.chans, s.arb, s.link, rfl⟩
  · exact ⟨_, s.chans, s.arb, s.link, rfl⟩
  · obtain ⟨hs, cs, a, l, e⟩ := headReset_frame s h
    rw [e]; exact ⟨_, cs, a, l, rfl⟩
  · exact ⟨s.heads, s.chans, s.arb, s.link, rfl⟩

/-! ## Readout -/

theorem tryGrant_frame : ∃ hs a l, tryGrant s = { s with heads := hs, arb := a, link := l } := by
  simp only [tryGrant, grantTo]
  repeat' split
  all_goals exact ⟨_, _, _, rfl⟩

/-- The blocks that an event, a completion or a head's command can change. -/
abbrev Moved (s t : State) : Prop := ∃ hs cs a l q i n,
  t = { s with heads := hs, chans := cs, arb := a, link := l, queue := q, irq := i, choices := n }

theorem Moved.refl : Moved s s := ⟨s.heads, s.chans, s.arb, s.link, s.queue, s.irq, s.choices, rfl⟩

variable {s} in
theorem Moved.trans {t u : State} (x : Moved s t) (y : Moved t u) : Moved s u := by
  obtain ⟨_, _, _, _, _, _, _, rfl⟩ := x
  obtain ⟨_, _, _, _, _, _, _, rfl⟩ := y
  exact ⟨_, _, _, _, _, _, _, rfl⟩

/-- A fold of operations each of which moves only those blocks moves only those blocks. -/
theorem Moved.foldl {α : Type} (f : State → α → State) (hf : ∀ s a, Moved s (f s a)) (l : List α) :
    Moved s (l.foldl f s) := by
  induction l generalizing s with
  | nil => exact .refl s
  | cons a l ih => exact (hf s a).trans (ih (f s a))

theorem slotEmptied_moved : Moved s (slotEmptied h s) := by
  simp only [slotEmptied, leaveBlocked, modHead_eq_setHead]
  repeat' split
  · exact ⟨_, s.chans, s.arb, s.link, s.queue, _, s.choices, rfl⟩
  · obtain ⟨hd, cs, e⟩ := acceptStart_frame s h _ _
    rw [e]; exact ⟨_, cs, s.arb, s.link, s.queue, s.irq, s.choices, rfl⟩
  · exact ⟨_, s.chans, s.arb, s.link, s.queue, s.irq, s.choices, rfl⟩
  · obtain ⟨hd, cs, e⟩ := enterPacing_frame s h
    rw [e]; exact ⟨_, cs, s.arb, s.link, s.queue, s.irq, s.choices, rfl⟩
  · obtain ⟨hs, cs, e⟩ := endExposure_frame s h
    obtain ⟨hs', cs', a, q, i, e'⟩ := completeGroup_frame { s with heads := hs, chans := cs } h
    rw [e, e']; exact ⟨_, cs', a, s.link, q, i, s.choices, rfl⟩
  all_goals exact .refl s

/-- A grant that may fall within an event: nothing when none is due, else the grant or nothing, and the counter moves. -/
theorem grantOrNot_cases :
    (s.grantDue = false ∧ grantOrNot s = s)
    ∨ s.grantDue = true ∧ (grantOrNot s = { s with choices := s.choices + 1 }
      ∨ grantOrNot s = tryGrant { s with choices := s.choices + 1 }) := by
  simp only [grantOrNot]
  cases s.grantDue with
  | false => exact .inl ⟨rfl, if_neg Bool.false_ne_true⟩
  | true => simp only [if_true]; split <;> simp

theorem grantOrNot_frame : ∃ hs a l n,
    grantOrNot s = { s with heads := hs, arb := a, link := l, choices := n } := by
  obtain ⟨-, e⟩ | ⟨-, e | e⟩ := grantOrNot_cases s
  · exact ⟨s.heads, s.arb, s.link, s.choices, e⟩
  · exact ⟨s.heads, s.arb, s.link, _, e⟩
  · obtain ⟨hs, a, l, e'⟩ := tryGrant_frame { s with choices := s.choices + 1 }
    exact ⟨hs, a, l, _, e.trans e'⟩

theorem grantOrNot_moved : Moved s (grantOrNot s) := by
  obtain ⟨hs, a, l, n, e⟩ := grantOrNot_frame s
  exact ⟨hs, s.chans, a, l, s.queue, s.irq, n, e⟩

theorem notifyEmptied_moved : Moved s (notifyEmptied h s) := by
  simp only [notifyEmptied]; split
  · exact (grantOrNot_moved s).trans (slotEmptied_moved _ h)
  · exact slotEmptied_moved s h

/-! ## Turns of the heads -/

@[simp] theorem inTurn_nil (act : HeadIx → State → State) : inTurn act [] s = s := rfl

@[simp] theorem inTurn_one (act : HeadIx → State → State) : inTurn act [h] s = act h s := rfl

@[simp] theorem inTurn_cons_cons (act : HeadIx → State → State) (k : HeadIx) (rest : List HeadIx) :
    inTurn act (h :: k :: rest) s = inTurn act (k :: rest) (grantOrNot (act h s)) := rfl

/-- What every turn and every grant keeps, the turns together keep. -/
theorem inTurn_induction {act : HeadIx → State → State} {P : State → Prop} (hact : ∀ h s, P s → P (act h s))
    (hgrant : ∀ s, P s → P (grantOrNot s)) (l : List HeadIx) (s : State) (hs : P s) : P (inTurn act l s) := by
  induction l generalizing s with
  | nil => exact hs
  | cons h rest ih =>
    refine ih _ ?_
    split
    · exact hact h s hs
    · exact hgrant _ (hact h s hs)

theorem inTurn_moved (act : HeadIx → State → State) (hact : ∀ s h, Moved s (act h s)) (l : List HeadIx) :
    Moved s (inTurn act l s) :=
  inTurn_induction (P := Moved s) (fun h t m => m.trans (hact t h)) (fun t m => m.trans (grantOrNot_moved t)) l s (.refl s)

theorem takeComplete_moved (tag : Byte) (status : Status) (level : Word) :
    Moved s (takeComplete tag status level s) := by
  have freed (t : State) (k : HeadIx) : Moved t (freePort k t) := by
    simp only [freePort, modHead_eq_setHead]
    exact ⟨_, t.chans, _, t.link, t.queue, t.irq, t.choices, rfl⟩
  have stray : Moved s (strayCompletion s) := ⟨s.heads, s.chans, _, s.link, s.queue, _, s.choices, rfl⟩
  have captured (k : HeadIx) : Moved s (captureReadout k status level s) := by
    simp only [captureReadout]
    split
    · obtain ⟨hd, q, i, e⟩ := offer_frame s k (captureBody ‹_› status level)
      rw [e]; exact Moved.trans ⟨_, s.chans, s.arb, s.link, q, i, s.choices, rfl⟩ ((freed _ k).trans (notifyEmptied_moved _ k))
    all_goals exact (freed _ k).trans (notifyEmptied_moved _ k)
  simp only [takeComplete]
  repeat' split
  · exact stray
  · exact captured _
  · exact captured _
  · obtain ⟨hs, cs, q, i, e⟩ := headFault_frame (freePort ‹_› s) ‹_› .rejected
    rw [e]; exact (freed s _).trans ⟨hs, cs, _, _, q, i, _, rfl⟩
  · exact stray

/-! ## Events -/

theorem receiveAssert_moved (src : Source) (time : Stamp) : Moved s (receiveAssert src time h s) := by
  have dropped (r : DropReason) : Moved s (dropTrigger h r (some src) time s) := by
    obtain ⟨hd, q, i, e⟩ := dropTrigger_frame s h r (some src) time
    rw [e]; exact ⟨_, s.chans, s.arb, s.link, q, i, s.choices, rfl⟩
  simp only [receiveAssert, modHead_eq_setHead]
  repeat' split
  all_goals first
    | exact .refl s
    | exact dropped _
    | exact ⟨_, s.chans, s.arb, s.link, s.queue, s.irq, s.choices, rfl⟩
    | (obtain ⟨hd, cs, e⟩ := acceptStart_frame s h { kind := .triggered src, arrival := time, latency := 0 } src
       rw [e]; exact ⟨_, cs, s.arb, s.link, s.queue, s.irq, s.choices, rfl⟩)

theorem receiveRelease_moved (n : LineIx) : Moved s (receiveRelease n h s) := by
  have short : Moved s (shortStart h n s) := by
    simp only [shortStart, modHead_eq_setHead]
    obtain ⟨hd, q, i, e⟩ := dropTrigger_frame ((leaveWaiters h s).setHead h _) h .short (some (.line n)) _
    rw [e]; exact ⟨_, _, s.arb, s.link, q, i, s.choices, rfl⟩
  simp only [receiveRelease]
  repeat' split
  all_goals first
    | exact .refl s
    | exact short
    | (obtain ⟨hs, cs, a, q, i, e⟩ := endCondition_frame s h false
       rw [e]; exact ⟨hs, cs, a, s.link, q, i, s.choices, rfl⟩)

/-- The order of an event's heads is a permutation of the heads; the model's counter alone may move. -/
theorem arrange_perm {α : Type} (fuel k : Nat) (l : List α) (hf : fuel = l.length) :
    (arrange fuel k l).Perm l := by
  induction fuel generalizing k l with
  | zero => exact .refl _
  | succ fuel ih =>
    cases l with
    | nil => cases hf
    | cons x xs =>
      have hk : k % (xs.length + 1) < (x :: xs).length := Nat.mod_lt _ (Nat.succ_pos _)
      simp only [arrange]
      generalize k % (xs.length + 1) = j at hk ⊢
      have hx : (x :: xs).getD j x = (x :: xs)[j] := by
        rw [List.getD_eq_getElem?_getD, List.getElem?_eq_getElem hk]; rfl
      rw [hx]
      refine ((ih _ _ ?_).cons _).trans ?_
      · rw [List.length_eraseIdx, if_pos hk]; simpa using hf
      · exact List.getElem_cons_eraseIdx_perm hk

theorem chooseOrder_spec (l : List HeadIx) : ∃ (order : List HeadIx) (n : Nat),
    chooseOrder l s = (order, { s with choices := n }) ∧ order.Perm l := by
  simp only [chooseOrder]; split
  · exact ⟨l, s.choices, rfl, .refl _⟩
  · exact ⟨_, _, rfl, arrange_perm _ _ _ rfl⟩

theorem deliverAssert_spec (src : Source) (time : Stamp) (heads : List HeadIx) : ∃ (order : List HeadIx) (n : Nat),
    order.Perm (heads.filter fun h => (s.head h).assertReaches src)
    ∧ deliverAssert src time heads s
      = order.foldl (fun a h => receiveAssert src time h a) { s with choices := n } := by
  obtain ⟨order, n, e, p⟩ := chooseOrder_spec s (heads.filter fun h => (s.head h).assertReaches src)
  exact ⟨order, n, p, by simp only [deliverAssert, e]⟩

theorem deliverRelease_spec (n : LineIx) : ∃ (order : List HeadIx) (k : Nat),
    order.Perm (allHeads.filter fun h => (s.head h).releaseReaches n)
    ∧ deliverRelease n s = inTurn (receiveRelease n) order { s with choices := k } := by
  obtain ⟨order, k, e, p⟩ := chooseOrder_spec s (allHeads.filter fun h => (s.head h).releaseReaches n)
  exact ⟨order, k, p, by simp only [deliverRelease, e]⟩

theorem deliverAssert_moved (src : Source) (time : Stamp) (heads : List HeadIx) :
    Moved s (deliverAssert src time heads s) := by
  obtain ⟨order, n, -, e⟩ := deliverAssert_spec s src time heads
  rw [e]
  exact Moved.trans ⟨s.heads, s.chans, s.arb, s.link, s.queue, s.irq, n, rfl⟩
    (Moved.foldl _ _ (fun t h => receiveAssert_moved t h src time) _)

theorem deliverRelease_moved (n : LineIx) : Moved s (deliverRelease n s) := by
  obtain ⟨order, k, -, e⟩ := deliverRelease_spec s n
  rw [e]
  exact Moved.trans ⟨s.heads, s.chans, s.arb, s.link, s.queue, s.irq, k, rfl⟩
    (inTurn_moved _ _ (fun t h => receiveRelease_moved t h n) _)

/-! ## A HEAD_EN word, a TB_DIV word, a read word -/

theorem writeHeadEn_spec (w : Word) : ∃ (order : List HeadIx) (k : Nat),
    order.Perm (allHeads.filter fun h => (s.head h).enabled != w.getLsbD h.val)
    ∧ writeHeadEn w s = inTurn (fun h => setHeadEnable h (w.getLsbD h.val)) order { s with choices := k } := by
  obtain ⟨order, k, e, p⟩ := chooseOrder_spec s (allHeads.filter fun h => (s.head h).enabled != w.getLsbD h.val)
  exact ⟨order, k, p, by simp only [writeHeadEn, e]⟩

theorem writeHeadEn_moved (w : Word) : Moved s (writeHeadEn w s) := by
  obtain ⟨order, k, -, e⟩ := writeHeadEn_spec s w
  rw [e]
  refine Moved.trans ⟨s.heads, s.chans, s.arb, s.link, s.queue, s.irq, k, rfl⟩ (inTurn_moved _ _ (fun t h => ?_) _)
  obtain ⟨hs, cs, a, l, e'⟩ := setHeadEnable_frame t h (w.getLsbD h.val)
  rw [e']; exact ⟨hs, cs, a, l, t.queue, t.irq, t.choices, rfl⟩

/-- A TB_DIV write stores the code; the tick in progress keeps its code, or takes the new one where a tick has just ended
and the code is another. -/
theorem writeDivider_cases (w : Word) :
    (writeDivider w s = { s with tb := { s.tb with divCode := w.extractLsb' 0 8 } }
      ∧ (s.tb.fresh = false ∨ w.extractLsb' 0 8 = s.tb.divCode))
    ∨ s.tb.fresh = true ∧ w.extractLsb' 0 8 ≠ s.tb.divCode
      ∧ (writeDivider w s = { s with
            tb := { s.tb with divCode := w.extractLsb' 0 8, fresh := false }, choices := s.choices + 1 }
        ∨ writeDivider w s = { s with
            tb := { s.tb with divCode := w.extractLsb' 0 8, tickCode := w.extractLsb' 0 8, fresh := true }
            choices := s.choices + 1 }) := by
  simp only [writeDivider]
  split
  · rename_i c
    rw [Bool.and_eq_true, bne_iff_ne] at c
    refine .inr ⟨c.1, c.2, ?_⟩
    cases Config.writeAtTickEnd s.choices
    · exact .inl rfl
    · exact .inr rfl
  · rename_i c
    refine .inl ⟨rfl, ?_⟩
    cases h : s.tb.fresh with
    | false => exact .inl rfl
    | true => exact .inr (by simpa [h] using c)

theorem readEffect_frame (a : Addr) : ∃ q tb p, readEffect a s = { s with queue := q, tb := tb, port := p } := by
  simp only [readEffect]
  repeat' split
  · exact ⟨s.queue, _, s.port, rfl⟩
  · exact ⟨s.queue, s.tb, _, rfl⟩
  · exact ⟨_, s.tb, s.port, rfl⟩
  · exact ⟨s.queue, s.tb, s.port, rfl⟩

/-- A plain read changes nothing at its register. -/
theorem readEffect_plain {a : Addr} (h₁ : a ≠ tbLoAddr) (h₂ : a ≠ ringDataAddr) (h₃ : a ≠ qPortAddr) :
    readEffect a s = s := by
  simp only [readEffect, if_neg h₁, if_neg h₂, if_neg h₃]

end Sys2Proof.Machine
end

