-- ==== Sys2Proof/Tests/Slice0.lean ====
section
/-! SUPPORT. The model's own tests: the WellFormed smoke test, one step of each command on a small state with the values that
the spec's tables and examples give, and for each statement with premises a state and operands that meet them. -/

namespace Sys2Proof.Tests

open Sys2Proof.Machine

/-! ## Helpers -/

/-- A property of the state that a command answers. -/
def gives (c : Instr) (s : State) (p : State → Bool) : Bool :=
  match exec c s with
  | .next t => p t
  | .fault _ => false
  | .refused _ => false

/-- Entry P4 of Section 1.9. -/
def progP4 : Program :=
  { Program.zero with
    sources := 0b100, delay := 150, accumulate := 2, strobe := 2, strobeWait := 500, readoutLimit := 20000
    fields := 0b00011, dropNotices := true }

/-- A program without Delay, Strobe and Burst on LINE2, of one exposure. -/
def progQ : Program := { Program.zero with sources := 0b100, accumulate := 1, readoutLimit := 10 }

/-- Table 11.2 for P4. -/
def bufferP4 : Vector Word 16 := #v[0x0004, 150, 0, 0x1A20, 0, 0, 0x0002, 0, 0, 500, 20000, 0, 0, 0, 0, 0]

/-- An enabled head in a state, under a program. -/
def headIn (st : ExpState) (p : Program) : Head :=
  { Head.reset with enabled := true, state := st, ctx := { Context.cleared with prog := p } }

/-- The power-on state with head H0 and the command arguments. -/
def withH0 (hd : Head) (a0 a1 : Word := 0) : State :=
  { State.reset.setHead 0 hd with port := { State.reset.port with arg0 := a0, arg1 := a1 } }

/-- The power-on state with a transaction open. -/
def inTransaction (read : Bool) (a : Addr) : State :=
  { State.reset with port := { State.reset.port with transaction := some ⟨read, a⟩ } }

/-- The power-on state with command arguments. -/
def args (a0 a1 : Word := 0) : State := { State.reset with port := { State.reset.port with arg0 := a0, arg1 := a1 } }

/-- A group on set 0 of the power-on ring. -/
def groupG : GroupRecord :=
  { setIndex := 0, integration := 100, gain := 0, tag := 0, timestamp := 7, cause := .triggered (.line 2), latency := 0
    span := 0, stretched := false, dark := false, late := false, overrun := false }

/-- A completed group on its way to the digitizer. -/
def doneG : Completed := { record := groupG, priority := .normal, readoutLimit := 10, fields := 0, aborted := false }

/-- An exposing head H0 with group G, its timers as given. -/
def exposingH0 (p : Program) (integration widthLimit : Option Nat) : Head :=
  { headIn .exposing p with
    ctx := { (headIn .exposing p).ctx with group := some groupG }
    timers := { HeadTimers.stopped with exposure := some 100, integration := integration, widthLimit := widthLimit } }

/-- H0's readout is active with tag 42, the receiver takes frames, and H0 stands as given. -/
def readingH0 (hd : Head) : State :=
  { State.reset.setHead 0 { hd with slot := .active doneG } with
    arb := { State.reset.arb with port := .busy 0 42 0, tagCounter := 42, linkEnable := true }
    link := { State.reset.link with rxWaitsIdle := false } }

/-- A line TIN3 as in Section 2.2's example: active LOW, Filter 40, pin and qualified level HIGH. -/
def tin3 : State :=
  { State.reset.setLine 3 ⟨true, 40, some ⟨true, none⟩⟩ with tin := State.reset.tin.set 3 true }

/-- Channel S1 as given. -/
def withS1 (s : State) (c : Channel) : State := s.setChan 1 c

/-- A queue of records. -/
def withQueue (s : State) (rs : List Record) (readPos : Nat := 0) : State :=
  { s with queue := { s.queue with records := rs, readPos := readPos } }

/-- A CAPTURE record of a length of 3 words. -/
def capRecord : Record := .ofHead 0 true 0 none (.capture ⟨false, false, false, false, false, false⟩ none none none none none)

/-! ## WellFormed -/

theorem test_wellformed_refuses_listed_code : (Instr.unlistedCommand 0x0001).wellFormed = false := by decide
theorem test_wellformed_takes_unlisted_code : (Instr.unlistedCommand 0x000A).wellFormed = true := by decide
theorem test_wellformed_refuses_good_frame : (Instr.linkError (completeFrame 42 .good 5)).wellFormed = false := by
  decide +kernel
theorem test_wellformed_takes_bad_frame : (Instr.linkError ⟨0xA3, 42, 1, 0, 5, 0⟩).wellFormed = true := by
  decide +kernel

/-! ## The host port -/

theorem test_power_on_reset : gives .powerOnReset (withH0 (headIn .fault progQ)) (fun t => t = State.reset) = true := by decide
theorem test_address_byte_reads_result :
    gives (.addressByte 0x83) State.reset (fun t => t.port.transaction = some ⟨true, 0x03⟩) = true := by decide
theorem test_deselect_ends_transaction :
    gives (.deselect false) (inTransaction false 0x10) (fun t => t.port.transaction = none) = true := by decide
theorem test_deselect_in_tb_lo_word :
    gives (.deselect true) { inTransaction true 0x68 with tb := ⟨0x12345678, 0, 0, 0, false, 0⟩ } (fun t =>
      t.port.transaction = none ∧ regRead t 0x69 = 0x1234) = true := by decide
theorem test_register_write_advances_at_arg0 :
    gives (.registerWrite 7) (inTransaction false 0x00) (fun t => t.port.arg0 = 7
      ∧ t.port.transaction = some ⟨false, 0x01⟩) = true := by decide
theorem test_word_of_a_read_transaction_wraps_after_7F :
    gives (.registerWrite 7) (inTransaction true 0x64) (fun t => t.port.sdo = some 1
      ∧ t.port.transaction = some ⟨true, 0x65⟩) = true
    ∧ gives (.registerWrite 7) (inTransaction true 0x7F) (fun t => t.port.sdo = some 0
      ∧ t.port.transaction = some ⟨true, 0x00⟩) = true := by decide
theorem test_unlisted_command_bad_arg :
    gives (.unlistedCommand 0x120A) State.reset (fun t => t.port.result = 0xA00A ∧ t.port.cmd = 0x120A) = true := by
  decide

/-! ## Programs (Table 1.4) -/

theorem test_program_write_step_2 :
    gives (.programWrite 0) { args 4 with buffer := bufferP4 } (fun t => t.entry 4 = ⟨true, progP4⟩
      ∧ t.port.result = 0x0010) = true := by decide
theorem test_program_write_step_10 : gives (.programWrite 0) (args 40) (fun t => t.port.result = 0xA010) = true := by
  decide
theorem test_program_read_step_8 :
    gives (.programRead 0) ((args 4).setEntry 4 ⟨false, progP4⟩) (fun t => t.buffer = bufferP4) = true := by decide
theorem test_program_clear_step_7 :
    gives (.programClear 0) ((args 4).setEntry 4 ⟨true, progP4⟩) (fun t => t.entry 4 = ⟨false, progP4⟩) = true := by decide

/-! ## Heads -/

theorem test_start_step_3 :
    gives (.start 0) ((withH0 (headIn .idle Program.zero) 0 4).setEntry 4 ⟨true, progP4⟩) (fun t =>
      t.port.result = 0x0001 ∧ (t.head 0).state = .armed ∧ (t.head 0).ctx.progIndex = 4) = true := by decide
theorem test_start_step_6_range :
    gives (.start 0) ((withH0 (headIn .idle Program.zero) 0 4).setEntry 4 ⟨true, { progP4 with accumulate := 0 }⟩)
      (fun t => t.port.result = 0xC501) = true := by decide
theorem test_stop_without_group_done :
    gives (.stop 0) (withH0 (headIn .armed progQ)) (fun t => (t.head 0).state = .idle ∧ t.irq.flags = 0x0100
      ∧ t.queue.records.map Record.words = [[0x8604, 0, 0x4000, 0]]) = true := by decide
theorem test_stop_with_group_marks :
    gives (.stop 0) (withH0 (exposingH0 progQ (some 5) none)) (fun t => (t.head 0).state = .exposing
      ∧ (t.head 0).ctx.stopPending = true) = true := by decide
theorem test_abort_counts_exposure_in_progress :
    gives (.abort 0) (withH0 (exposingH0 progQ (some 5) none)) (fun t => (t.head 0).state = .idle
      ∧ t.queue.records.map Record.words = [[0x6603, 0, 0x0001]]) = true := by decide
theorem test_abort_of_active_readout :
    gives (.abort 0) (readingH0 (headIn .draining progQ)) (fun t => (t.head 0).state = .draining
      ∧ (t.head 0).slot = .active { doneG with aborted := true }
      ∧ t.queue.records.map Record.words = [[0x6603, 0, 0x2000]]) = true := by decide
theorem test_clear_needs_fault :
    gives (.clear 0) (withH0 (headIn .armed progQ)) (fun t => t.port.result = 0xB004) = true := by decide
theorem test_clear_keeps_context :
    gives (.clear 0) (withH0 (headIn .fault progQ)) (fun t => (t.head 0) = { headIn .fault progQ with state := .idle }) = true := by
  decide
theorem test_head_reset_cancels_readout :
    gives (.headReset 0) (readingH0 (headIn .draining progQ)) (fun t => (t.head 0).slot = .empty ∧ t.arb.port = .idle
      ∧ t.link.sending = some (.cancel 42)) = true := by decide
theorem test_head_enable : gives (.headEnable 2) State.reset (fun t => regRead t 0x34 = 0x0004
    ∧ regRead t 0x2A = 0x0001) = true := by decide
theorem test_head_disable : gives (.headDisable 0) (withH0 (headIn .armed progQ)) (fun t => regRead t 0x28 = 0) = true := by
  decide
theorem test_head_drop_clear :
    gives (.headDropClear 0) (withH0 { headIn .idle progQ with drops := 65535 }) (fun t => regRead t 0x2C = 0) = true := by
  decide
theorem test_soft_reset_keeps_enable :
    gives (.softReset 0) (withH0 (exposingH0 progQ (some 5) none)) (fun t => (t.head 0).state = .idle
      ∧ t.port.result = 0x005A) = true := by decide

/-! ## Triggers (Table 2.3) -/

theorem test_line_enable_takes_pin :
    gives (.lineEnable 3 true 40) { State.reset with tin := State.reset.tin.set 3 true } (fun t => t = { tin3 with
      port := t.port } ∧ regRead t 0x3B = 0x8128) = true := by decide
theorem test_line_disable : gives (.lineDisable 3 true 40) tin3 (fun t => (t.line 3).qualifier = none) = true := by decide
theorem test_line_reconfigure_keeps_edge :
    gives (.lineReconfigure 3 true 9) (tin3.setLine 3 ⟨true, 40, some ⟨true, some ⟨false, 12⟩⟩⟩) (fun t =>
      t.line 3 = ⟨true, 9, some ⟨true, some ⟨false, 12⟩⟩⟩) = true := by decide
theorem test_line_departure_starts_filter :
    gives (.lineLevelChange 3 false) tin3 (fun t => (t.line 3).qualifier = some ⟨true, some ⟨false, 40⟩⟩
      ∧ regRead t 0x40 = 0x0800) = true := by decide
theorem test_filter_expiry_asserts :
    gives (.filterExpiry 3) ((withH0 (headIn .armed { progQ with sources := 0b1000, delay := 5 })).setLine 3
        ⟨true, 40, some ⟨true, some ⟨false, 0⟩⟩⟩) (fun t => (t.head 0).state = .delay
      ∧ (t.head 0).ctx.pendingStart = some ⟨.triggered (.line 3), 0, 0⟩ ∧ regRead t 0x40 = 0x0008) = true := by decide
theorem test_rate_enable_counts_two :
    gives (.rateEnable 0 3) State.reset (fun t => (t.rate 0).run = some ⟨2, 0⟩ ∧ regRead t 0x46 = 0x8003) = true := by decide
theorem test_rate_disable : gives (.rateDisable 1 3) State.reset (fun t => regRead t 0x4A = 0x0003) = true := by decide
theorem test_rate_decimation :
    gives (.rateDecimation 0 9) (State.reset.setRate 0 ⟨8, 0, 8, 3, some ⟨5, 2⟩⟩) (fun t =>
      t.rate 0 = ⟨8, 0, 8, 9, some ⟨5, 2⟩⟩) = true := by decide
theorem test_rate_period_write :
    gives (.ratePeriodWrite 0 0x12) (State.reset.setRate 0 ⟨0x3456, 0, 8, 3, some ⟨5, 2⟩⟩) (fun t =>
      t.rate 0 = ⟨0x3456, 0x12, 0x123456, 3, some ⟨5, 2⟩⟩) = true := by decide
theorem test_rate_period_expiry_counts :
    gives (.ratePeriodExpiry 0) (State.reset.setRate 0 ⟨8, 0, 8, 3, some ⟨0, 2⟩⟩) (fun t =>
      (t.rate 0).run = some ⟨8, 3⟩) = true := by decide
theorem test_rate_period_expiry_emits :
    gives (.ratePeriodExpiry 0) ((withH0 (headIn .blocked { progQ with sources := 0x200 })).setRate 0
        ⟨8, 0, 8, 3, some ⟨0, 3⟩⟩) (fun t => (t.rate 0).run = some ⟨8, 0⟩
      ∧ (t.head 0).ctx.latch = some ⟨.rate 0, 0, 0⟩) = true := by decide
theorem test_soft_trigger_needs_source :
    gives (.softTrigger 0) (withH0 (headIn .armed progQ) 1) (fun t => (t.head 0).state = .armed ∧ t.port.result = 0x0006)
      = true := by decide
theorem test_soft_trigger_starts :
    gives (.softTrigger 0) (withH0 (headIn .armed { progQ with sources := 0x100 }) 1) (fun t => (t.head 0).state = .exposing
      ∧ t.expPin 0 = true ∧ (t.head 0).timers.integration = some 100) = true := by decide

/-! ## Expiries at a head -/

theorem test_delay_expiry_starts :
    gives (.delayExpiry 0) (withH0 { headIn .delay progQ with
      ctx := { (headIn .delay progQ).ctx with pendingStart := some ⟨.triggered (.line 2), 3, 9⟩ }
      timers := { HeadTimers.stopped with delay := some 0 } }) (fun t => (t.head 0).state = .exposing
      ∧ (t.head 0).ctx.group.map (·.latency) = some 9) = true := by decide
theorem test_integration_expiry_completes :
    gives (.integrationExpiry 0) (withH0 (exposingH0 progQ (some 0) none)) (fun t => t.arb.queue = [0]
      ∧ (t.head 0).slot = .queued { doneG with record := { groupG with span := 100 } }
      ∧ (t.head 0).state = .blocked) = true := by decide
theorem test_width_limit_expiry_overruns :
    gives (.widthLimitExpiry 0) (withH0 (exposingH0 { progQ with length := .width, accumulate := 2 } none (some 0)))
      (fun t => (t.head 0).state = .armed ∧ (t.head 0).ctx.group.map (·.overrun) = some true) = true := by decide
theorem test_spacing_expiry_on_time :
    gives (.spacingExpiry 0) (withH0 { headIn .pacing { progQ with repetition := .timer, spacing := 40 } with
      ctx := { Context.cleared with prog := { progQ with repetition := .timer, spacing := 40 }, spacing := .running 0 } })
      (fun t => (t.head 0).state = .exposing ∧ (t.head 0).ctx.spacing = .running 40
        ∧ (t.head 0).ctx.group.map (·.late) = some false) = true := by decide
theorem test_overdue_tick_attempt_is_late :
    gives (.overdueTickAttempt 0) (withH0 { headIn .pacing { progQ with repetition := .timer, spacing := 40 } with
      ctx := { Context.cleared with prog := { progQ with repetition := .timer, spacing := 40 }, spacing := .expired 1 5 }
      timers := { HeadTimers.stopped with retry := .due } })
      (fun t => (t.head 0).ctx.group.map (fun g => (g.late, g.latency, g.cause)) = some (true, 1, .paced)) = true := by decide
theorem test_strobe_wait_expiry_drops :
    gives (.strobeWaitExpiry 0) (withS1 (withH0 { headIn .strobeWait progP4 with
      ctx := { Context.cleared with prog := progP4, pendingStart := some ⟨.triggered (.line 2), 3, 9⟩ }
      timers := { HeadTimers.stopped with strobeWait := some 0 } }) ⟨true, false, some 3, [2, 0]⟩)
      (fun t => (t.head 0).state = .armed ∧ (t.chan 1).waiters = [2] ∧ regRead t 0x2C = 1
        ∧ t.queue.records.map Record.words = [[0x4605, 0, 0x2002, 0, 3]]) = true := by decide

/-! ## Bracket rings (Table 5.3) -/

theorem test_apply_step_3_pending :
    gives (.apply 0) (withH0 (headIn .armed progQ)) (fun t => (t.head 0).ring.applyPending = true ∧ t.port.result = 0x0007)
      = true := by decide
theorem test_apply_step_10_bad_set :
    gives (.apply 0) (withH0 { headIn .armed progQ with ring := { Head.reset.ring with staged :=
      { Ring.reset with length := 9 } } }) (fun t => t.port.result = 0xD007) = true := by decide
theorem test_ring_write_step_4_withdraws :
    gives (.ringDataWrite 15) { withH0 { headIn .armed progQ with ring := { Head.reset.ring with applyPending := true } } with
      port := { State.reset.port with ringSel := ⟨0, false, 2⟩ } } (fun t => (t.head 0).ring.applyPending = false
      ∧ (t.head 0).ring.withdrawn = true ∧ (t.head 0).ring.staged.code 2 = 15 ∧ t.port.ringSel.pos = 3) = true := by decide
theorem test_ring_read_live_length :
    gives .ringDataRead { withH0 { headIn .armed progQ with ring := { Head.reset.ring with applyPending := true } } with
      port := { State.reset.port with ringSel := ⟨0, true, 32⟩ } } (fun t => t.port.sdo = some 0x8001
      ∧ t.port.ringSel.pos = 0) = true := by decide

/-! ## Strobe channels -/

theorem test_strobe_enable : gives (.strobeEnable 1) State.reset (fun t => regRead t 0x50 = 0x0002) = true := by decide
theorem test_strobe_disable_starts_waiter :
    gives (.strobeDisable 1) (withS1 (withH0 { headIn .strobeWait progP4 with
      ctx := { Context.cleared with prog := progP4, pendingStart := some ⟨.triggered (.line 2), 3, 9⟩ } })
      ⟨true, false, some 3, [0]⟩) (fun t => t.chan 1 = ⟨false, false, none, []⟩ ∧ (t.head 0).state = .exposing
      ∧ (t.head 0).ctx.group.map (·.dark) = some true) = true := by decide
theorem test_strobe_polarity : gives (.strobePolarity 1 true) State.reset (fun t => t.stbPin 1 = true
    ∧ regRead t 0x50 = 0x0200) = true := by decide

/-! ## Readout and link (Table 7.4) -/

theorem test_grant_at_100 :
    gives .grant { withH0 { headIn .blocked progQ with slot := .queued doneG } with
      arb := { State.reset.arb with queue := [0], tagCounter := 41, linkEnable := true } } (fun t =>
      t.arb.port = .busy 0 42 10 ∧ t.arb.queue = [] ∧ regRead t 0x59 = 0x802A
      ∧ t.link.sending = some (.start 0 42 0)) = true := by decide
theorem test_link_enable : gives .linkEnable State.reset (fun t => regRead t 0x58 = 1) = true := by decide
theorem test_link_disable : gives .linkDisable (readingH0 (headIn .draining progQ)) (fun t => regRead t 0x58 = 0
    ∧ t.arb.port = .busy 0 42 0) = true := by decide
theorem test_frame_sent :
    gives .frameSent { State.reset with link := ⟨some (.cancel 1), [.start 0 2 5], true⟩ } (fun t =>
      t.link = ⟨some (.start 0 2 5), [], true⟩) = true := by decide
theorem test_complete_at_3000_digerr :
    gives (.complete 42 .error 5) (readingH0 (headIn .draining progQ)) (fun t => t.arb.port = .idle
      ∧ (t.head 0).state = .idle ∧ t.irq.flags = 0x0100
      ∧ t.queue.records.map Record.words = [[0x2603, 0, 0x0020]]) = true := by decide
theorem test_complete_at_4620_stray :
    gives (.complete 44 .good 5) (readingH0 (headIn .draining progQ)) (fun t => regRead t 0x5A = 0x0100
      ∧ t.irq.flags = 0x0008) = true := by decide
theorem test_link_error_at_2150 :
    gives (.linkError ⟨0xA3, 42, 1, 0, 5, 0⟩) (readingH0 (headIn .draining progQ)) (fun t => regRead t 0x5A = 0x0001
      ∧ t.irq.flags = 0x0010) = true := by decide +kernel
theorem test_short_frame : gives .shortFrame (readingH0 (headIn .draining progQ)) (fun t => regRead t 0x5A = 0x0001
    ∧ t.link.rxWaitsIdle = true) = true := by decide
theorem test_byte_time_idle : gives .byteTimeIdle State.reset (fun t => t.link.rxWaitsIdle = false) = true := by decide
theorem test_readout_timeout_at_4500 :
    gives .readoutTimeout (readingH0 (headIn .draining progQ)) (fun t => (t.head 0).state = .fault
      ∧ (t.head 0).slot = .empty ∧ t.arb.port = .idle ∧ t.irq.flags = 0x1000
      ∧ t.link.sending = some (.cancel 42)
      ∧ t.queue.records.map Record.words = [[0xA605, 0, 0x1000, 0, 0]]) = true := by decide
theorem test_link_cnt_clear :
    gives .linkCntClear { State.reset with arb := { State.reset.arb with stray := 3, linkErrors := 255 } } (fun t =>
      regRead t 0x5A = 0) = true := by decide
/-- The check bytes of R182, worked outside the model: CRC-8 with generator 0x07, start 0xFF. -/
theorem test_frames_on_ltx :
    (Message.cancel 42).bytes = [0xA2, 42, 0x33] ∧ (Message.start 0 42 0).bytes = [0xA1, 0, 42, 0, 0, 0x6C]
      ∧ completeFrame 42 .good 5 = ⟨0xA3, 42, 0x01, 0, 5, 0x4E⟩ := by decide +kernel

/-! ## Records (Table 8.3) -/

theorem test_mark_step_3 :
    gives (.mark 0) (args 7) (fun t => t.queue.records.map Record.words = [[0xD402, 7]] ∧ t.port.result = 0x0008) = true := by
  decide
theorem test_discard_step_8 :
    gives (.discard 0) (withQueue State.reset [capRecord, .mark 9] 2) (fun t => t.queue.occupancy = 2
      ∧ t.queue.readPos = 0) = true := by decide
theorem test_queue_read_step_6 :
    gives .queueRead (withQueue State.reset [capRecord, .mark 9] 1) (fun t => t.port.sdo = some 0x0000
      ∧ t.queue.occupancy = 3 ∧ regRead t 0x63 = 1) = true := by decide
theorem test_queue_read_empty : gives .queueRead State.reset (fun t => t.port.sdo = some 0x0000
    ∧ t.queue = State.reset.queue) = true := by decide
theorem test_q_thresh_zero_is_one : gives (.qThreshWrite 0) State.reset (fun t => regRead t 0x64 = 1) = true := by decide
theorem test_q_thresh_above_512 : gives (.qThreshWrite 513) State.reset (fun t => regRead t 0x64 = 512) = true := by decide

/-! ## Timebase and interrupts -/

theorem test_tb_load : gives (.tbLoad 0) (args 0x5678 0x1234) (fun t => t.now = 0x12345678) = true := by decide
theorem test_tb_lo_read_captures :
    gives .tbLoRead { State.reset with tb := ⟨0x12345678, 0, 0, 0, false, 0⟩ } (fun t => t.port.sdo = some 0x5678
      ∧ regRead t 0x69 = 0x1234) = true := by decide
theorem test_tb_div_write : gives (.tbDivWrite 0x0105) State.reset (fun t => regRead t 0x6A = 5 ∧ t.tb.tickCode = 0)
    = true := by decide
/-- R166: a write together with a tick's end governs the tick that has just begun, or the one after it. -/
theorem test_tb_div_write_after_tick (s : State) (h : s.tb.fresh = true) (hs : s.tb.divCode = 0) :
    (writeDivider 3 s).tb.divCode = 3
    ∧ ((writeDivider 3 s).tb.tickCode = 3 ∨ (writeDivider 3 s).tb.tickCode = s.tb.tickCode) := by
  obtain ⟨-, e | e⟩ | ⟨-, -, e | e⟩ := writeDivider_cases s 3
  · rw [h] at e; cases e
  · rw [hs] at e; exact absurd e (by decide)
  · rw [e]; exact ⟨rfl, .inr rfl⟩
  · rw [e]; exact ⟨rfl, .inl rfl⟩
theorem test_tick_wraps : gives .tick { State.reset with tb := ⟨0xFFFFFFFF, 5, 0, 0, false, 0⟩ } (fun t => t.now = 0
    ∧ t.tb.tickCode = 5) = true := by decide
theorem test_irq_flags_clear :
    gives (.irqFlagsClear 0x0102) { State.reset with irq := ⟨0x0306, 0, false⟩ } (fun t => regRead t 0x70 = 0x0204) = true := by
  decide
theorem test_irq_en_write : gives (.irqEnWrite 0xFFFF) State.reset (fun t => regRead t 0x71 = 0xFF1F) = true := by decide
theorem test_irq_polarity : gives (.irqPolarity true) State.reset (fun t => t.irqPin = false ∧ regRead t 0x72 = 1) = true := by
  decide

/-! ## Witnesses: for each statement with premises, states and operands that meet them, clause by clause -/

/-- H0 waits in DELAY, its timer due, for a start under a program. -/
def delayDueH0 (p : Program) : State :=
  withH0 { headIn .delay p with
    ctx := { (headIn .delay p).ctx with pendingStart := some ⟨.triggered (.line 2), 3, 9⟩ }
    timers := { HeadTimers.stopped with delay := some 0 } }

/-- P4 under Repeat TIMER. -/
def progT : Program := { progQ with repetition := .timer, spacing := 40, strobeWait := 1 }

/-- H0 in a state under a program, its spacing timer as given. -/
def spacedH0 (st : ExpState) (p : Program) (x : SpacingTimer) : State :=
  withH0 { headIn st p with ctx := { (headIn st p).ctx with spacing := x } }

/-- H0 waits in STROBE_WAIT at S1 behind H2, its timer due, for a start of a kind. -/
def waitDueH0 (p : Program) (k : StartKind) (x : SpacingTimer) : State :=
  withS1 (withH0 { headIn .strobeWait p with
    ctx := { (headIn .strobeWait p).ctx with pendingStart := some ⟨k, 3, 9⟩, spacing := x }
    timers := { HeadTimers.stopped with strobeWait := some 0 } }) ⟨true, false, some 3, [2, 0]⟩

/-- A head at the end of a burst's group. -/
def endedH0 (burst done : Byte) (stop : Bool) (p : Program) : Head :=
  { headIn .exposing p with
    ctx := { Context.cleared with prog := { p with burst := burst }, groupsDone := done, stopPending := stop } }

theorem witness_EmptyQueueStep :
    (let s : State := { State.reset with tb := ⟨0, 255, 255, 254, false, 0⟩ };
      s.pending = [] ∧ s.dueEvents = [] ∧ s.tb.refclks < s.tb.tickCode.toNat)
    ∧ (State.reset.pending = [] ∧ State.reset.dueEvents = [] ∧ State.reset.tb.tickCode.toNat ≤ State.reset.tb.refclks)
    ∧ (let s := readingH0 (headIn .draining progQ)
      s.pending = [] ∧ s.dueEvents = [.readoutTimeout])
    ∧ (let s := { delayDueH0 progQ with arb := { State.reset.arb with port := .busy 1 3 0 } }
      s.pending = [] ∧ 2 ≤ s.dueEvents.length ∧ .delayExpiry 0 ∈ s.dueEvents ∧ .readoutTimeout ∈ s.dueEvents) := by decide

/-- R57 and log 19: SPAN at its bound after an exposure of 100 ticks, and one tick short of it. -/
theorem test_span_saturates :
    let ends (span : Stamp) : Head := { exposingH0 { progQ with accumulate := 2 } (some 0) none with
      ctx := { (exposingH0 { progQ with accumulate := 2 } none none).ctx with group := some { groupG with span := span } } }
    (((endCondition 0 false (withH0 (ends 0xFFFFFFA0))).head 0).ctx.group.map (·.span) = some 0xFFFFFFFF)
    ∧ ((endCondition 0 false (withH0 (ends 0xFFFFFF9A))).head 0).ctx.group.map (·.span) = some 0xFFFFFFFE := by decide

theorem witness_AddressByteAndDeselect :
    (inTransaction true 0x68).port.transaction = some ⟨true, 0x68⟩
    ∧ (inTransaction false 0x68).port.transaction ≠ some ⟨true, 0x68⟩
    ∧ (inTransaction true 0x67).port.transaction ≠ some ⟨true, 0x68⟩ ∧ State.reset.port.transaction ≠ some ⟨true, 0x68⟩ := by
  decide

theorem witness_RegisterWriteStores :
    (∀ a ∈ [0x00#7, 0x01#7, 0x20#7], (inTransaction false a).port.transaction = some ⟨false, a⟩)
    ∧ (∀ i ∈ [(0 : Fin 16), 15], (inTransaction false (0x10#7 + BitVec.ofNat 7 i.val)).port.transaction
        = some ⟨false, 0x10#7 + BitVec.ofNat 7 i.val⟩)
    ∧ (∀ g : RateIx, (inTransaction false (0x44#7 + 4#7 * BitVec.ofNat 7 g.val)).port.transaction
        = some ⟨false, 0x44#7 + 4#7 * BitVec.ofNat 7 g.val⟩)
    ∧ (∀ a ∈ [0x03#7, 0x69#7, 0x60#7], (inTransaction false a).port.transaction = some ⟨false, a⟩)
    ∧ (0x04#7 ≤ 0x04#7 ∧ 0x0F#7 ≤ 0x0F#7 ∧ 0x73#7 ≤ 0x7F#7)
    ∧ (∀ a ∈ [0x00#7, 0x03#7, 0x67#7, 0x69#7, 0x7F#7], (inTransaction true a).port.transaction = some ⟨true, a⟩
        ∧ a ∉ [0x02#7, 0x21#7, 0x60#7, 0x68#7])
    ∧ (inTransaction true 0x02).port.transaction = some ⟨true, 0x02⟩ ∧ State.reset.port.transaction = none := by decide

/-- A HEAD_EN word that changes H0 and H3, and one that changes H0 alone, are among the words. -/
theorem witness_RegisterWriteActsAsTheRow :
    (∀ a ∈ [0x21#7, 0x60#7, 0x68#7], (inTransaction true a).port.transaction = some ⟨true, a⟩) ∧
    (allHeads.filter fun h => ((inTransaction false 0x34).head h).enabled != (0x0009#16).getLsbD h.val) = [0, 3] ∧
    (∀ a ∈ [0x02#7, 0x21#7, 0x2C#7, 0x2F#7, 0x38#7, 0x3F#7, 0x45#7, 0x4A#7, 0x58#7, 0x5A#7, 0x64#7, 0x6A#7, 0x70#7, 0x71#7,
      0x72#7], (inTransaction false a).port.transaction = some ⟨false, a⟩)
    ∧ (∀ k : HeadIx, k ≠ 0 → (0x0001#16).getLsbD k.val = ((inTransaction false 0x34).head k).enabled)
    ∧ (∀ k : ChanIx, k ≠ 3 → (0x0808#16).getLsbD k.val = ((inTransaction false 0x50).chan k).enabled
        ∧ (0x0808#16).getLsbD (8 + k.val) = ((inTransaction false 0x50).chan k).activeLow)
    ∧ (0x0008#16).getLsbD (8 + 3) = ((inTransaction false 0x50).chan 3).activeLow
    ∧ (0x0800#16).getLsbD 3 = ((inTransaction false 0x50).chan 3).enabled := by decide

theorem witness_CommandWordAtThePort :
    (Instr.softReset 0, 0x5A#8) ∈ [(Instr.start 0, 0x01#8), (.softReset 0, 0x5A#8)]
    ∧ (0xFF0A#16).extractLsb' 0 8 ∉ [0x01#8, 0x02#8, 0x03#8, 0x04#8, 0x05#8, 0x06#8, 0x07#8, 0x08#8, 0x09#8, 0x10#8, 0x11#8,
        0x12#8, 0x20#8, 0x5A#8]
    ∧ (Instr.qThreshWrite 7, 0x64#7) ∈ [(Instr.qThreshWrite 7, 0x64#7), (.tbDivWrite 7, 0x6A#7)]
    ∧ Instr.tick ∈ [Instr.readoutTimeout, .tick, .byteTimeIdle] := by decide

/-- A frame examined as a COMPLETE. -/
theorem witness_CompleteFrameRoundTrip : examineFrame ⟨0xA3, 42, 0x01, 0, 5, 0x4E⟩ = some (42, .good, 5) := by
  decide +kernel

/-- For StatusRegistersShowTheState too: a partly read record in a short queue, a BUSY port, a line with each mark. -/
theorem witness_StatusRegistersShowTheState :
    (withQueue State.reset [capRecord] 2).queue.occupancy ≤ 512 ∧ (withQueue State.reset [capRecord] 2).queue.records.length ≤ 512
    ∧ 0 < (withQueue State.reset [capRecord] 2).queue.readPos ∧ State.reset.queue.readPos = 0
    ∧ State.reset.arb.queue.length < 8 ∧ (withQueue State.reset [capRecord] 2).queue.threshold ≤ 512
    ∧ (0x04#7 ≤ 0x04#7 ∧ 0x0F#7 ≤ 0x0F#7 ∧ 0x41#7 ≤ 0x43#7 ∧ 0x43#7 ≤ 0x43#7 ∧ 0x73#7 ≤ 0x7F#7) := by decide

/-- Table 11.2 for P4, as PROGRAM_READ fills it and as PROGRAM_WRITE takes it. -/
theorem witness_DescriptorRoundTrip :
    bufferP4 = bufferOfEntry ⟨false, progP4⟩
    ∧ (false = bufferP4[0].getLsbD 15 ∧ progP4 = programOfBuffer bufferP4) := by decide

/-- For the three table commands: entry arguments 31 and 32, the power-on table, an invalid entry, a chain to one. -/
theorem witness_ProgramCommands :
    (args 31).port.arg0.toNat = (31 : EntryIx).val ∧ 31 < (args 32).port.arg0.toNat ∧ (args 31).table = State.reset.table
    ∧ ((args 31).entry 31).valid = false
    ∧ (let s := withH0 (headIn .idle progQ) 0 31
      s.port.arg0.toNat = (0 : HeadIx).val ∧ s.port.arg1.toNat = (31 : EntryIx).val ∧ (s.head 0).state = .idle
      ∧ (s.entry 31).valid = false)
    ∧ (let s := withH0 (endedH0 3 3 false { progQ with link := 32 })
      (s.head 0).ctx.stopPending = false ∧ (s.head 0).ctx.prog.burst ≠ 0
      ∧ (s.head 0).ctx.groupsDone = (s.head 0).ctx.prog.burst ∧ (s.head 0).ctx.prog.link.toNat = (31 : EntryIx).val + 1
      ∧ (s.entry 31).valid = false) := by decide

/-- One entry for each clause of ValidationOrder, the accepted one at the bounds of its ranges. -/
theorem witness_ValidationOrder :
    validate ⟨false, progP4⟩ = some .invalidEntry ∧ validate ⟨true, { progP4 with sources := 0 }⟩ = some .noSource
    ∧ validate ⟨true, { progP4 with sources := 0x100, length := .width }⟩ = some .widthSource
    ∧ validate ⟨true, { progP4 with length := .width, repetition := .timer }⟩ = some .widthRepeat
    ∧ validate ⟨true, { progP4 with delay := 1048576 }⟩ = some .range
    ∧ validate ⟨true, { progP4 with delay := 1048575, accumulate := 16, strobe := 4, readoutLimit := 1, link := 32 }⟩ = none := by
  decide

theorem witness_StartFollowsItsChecks :
    3 < (args 4).port.arg0.toNat ∧ (args 3 32).port.arg0.toNat = (3 : HeadIx).val ∧ 31 < (args 3 32).port.arg1.toNat
    ∧ (args 3 31).port.arg1.toNat = (31 : EntryIx).val ∧ ((args 3 31).head 3).state ≠ .idle
    ∧ ((withH0 (headIn .idle progQ)).head 0).state = .idle
    ∧ validate ((withH0 (headIn .idle progQ)).entry 0) = some .invalidEntry
    ∧ (let s := (withH0 (headIn .idle progQ)).setEntry 0 ⟨true, progP4⟩
      (s.head 0).state = .idle ∧ validate (s.entry 0) = none) := by decide

theorem witness_StopEndsOrMarksTheBurst :
    3 < (args 4).port.arg0.toNat ∧ (args 3).port.arg0.toNat = (3 : HeadIx).val ∧ ((args 3).head 3).state.running = false
    ∧ (let s := withH0 (exposingH0 progQ (some 1) none)
      (s.head 0).state.running = true ∧ (s.head 0).ctx.group.isSome = true)
    ∧ (let s := withH0 (headIn .armed progQ)
      (s.head 0).state.running = true ∧ (s.head 0).ctx.group = none ∧ ∀ n : ChanIx, (s.chan n).holder ≠ some 0) := by decide

theorem witness_AbortTearsTheHeadDown :
    3 < (args 4).port.arg0.toNat ∧ (args 3).port.arg0.toNat = (3 : HeadIx).val ∧ ((args 3).head 3).state = .off
    ∧ (let s := readingH0 (headIn .draining progQ)
      (s.head 0).state ≠ .off ∧ (s.head 0).state ≠ .idle ∧ (s.head 0).state ≠ .fault)
    ∧ (let s := withS1 (withH0 (exposingH0 progP4 (some 1) none)) ⟨true, false, some 0, [2]⟩
      ∀ n : ChanIx, (s.chan n).holder = some 0 → 0 ∉ (s.chan n).waiters) := by decide

theorem witness_ClearAndHeadReset :
    3 < (args 4).port.arg0.toNat ∧ (args 3).port.arg0.toNat = (3 : HeadIx).val ∧ ((args 3).head 3).state ≠ .fault
    ∧ ((withH0 (headIn .fault progQ)).head 0).state = .fault
    ∧ (let s := waitDueH0 progP4 .paced .stopped
      (s.head 0).state = .strobeWait ∧ ∀ n : ChanIx, (s.chan n).holder = some 0 → 0 ∉ (s.chan n).waiters)
    ∧ ((args 0).head 0).slot = .empty
    ∧ ((withH0 { headIn .blocked progQ with slot := .queued doneG }).head 0).slot = .queued doneG
    ∧ (let s := readingH0 (headIn .draining progQ)
      (s.head 0).slot = .active doneG ∧ s.arb.port = .busy 0 42 0) := by decide

theorem witness_HeadEnableDisableAndDropClear :
    ((withH0 (headIn .idle progQ)).head 0).enabled = true ∧ (State.reset.head 3).enabled = false := by decide

/-- A staged length of 0 and of 9 fails, 1 and 8 pass; a running head and one that does not run. -/
theorem witness_ApplyChecksAndCommits :
    3 < (args 4).port.arg0.toNat ∧ (args 3).port.arg0.toNat = (3 : HeadIx).val
    ∧ ({ Ring.reset with length := 0 } : Ring).ok = false ∧ ({ Ring.reset with length := 9 } : Ring).ok = false
    ∧ Ring.reset.ok = true ∧ (⟨8, Vector.replicate 8 ⟨1, 1023, 0⟩⟩ : Ring).ok = true
    ∧ (⟨8, Vector.replicate 8 ⟨1, 1024, 0⟩⟩ : Ring).ok = false := by decide

theorem witness_RingDataTransfers :
    (0 : Fin 33) ≠ 32 ∧ State.reset.port.ringSel.live = false
    ∧ ({ State.reset.port with ringSel := ⟨3, true, 32⟩ } : HostPort).ringSel.live = true := by decide

/-- A queue with 2 words free, and a full one. -/
theorem witness_MarkAppendsOrIsRefused :
    2 ≤ 512 - (withQueue State.reset (List.replicate 255 (.mark 0))).queue.occupancy
    ∧ 512 - (withQueue State.reset (List.replicate 255 (.mark 0)) 0).queue.occupancy = 2
    ∧ 512 - (withQueue State.reset (List.replicate 256 (.mark 0)) 1).queue.occupancy < 2 := by decide +kernel

theorem witness_DiscardDropsTheOldestRecord :
    State.reset.queue.records = [] ∧ (withQueue State.reset [capRecord] 2).queue.records = [capRecord]
    ∧ (withQueue State.reset [capRecord] 2).queue.readPos < capRecord.words.length := by decide

theorem witness_QueueReadTakesOneWord :
    State.reset.queue.records = [] ∧ (withQueue State.reset [capRecord] 1).queue.readPos + 1 < capRecord.words.length
    ∧ (withQueue State.reset [capRecord] 2).queue.readPos + 1 = capRecord.words.length := by decide

/-- A record of 3 words into 3 free words, and into 2. -/
theorem witness_RecordsAndDropsAreAccounted :
    (withQueue State.reset (List.replicate 254 (.mark 0)) 0).queue.occupancy + capRecord.words.length ≤ 512
    ∧ (withQueue State.reset (List.replicate 255 (.mark 0)) 1).queue.occupancy + 3 = 512
    ∧ 512 < (withQueue State.reset (List.replicate 255 (.mark 0)) 0).queue.occupancy + capRecord.words.length := by
  decide +kernel

/-- H0 and H1 expose under WIDTH on LINE2, H1's class URGENT; the port is IDLE, the link enabled, nothing queued. -/
def twoWidth : State :=
  let p : Program := { progQ with length := .width, widthLimit := 9 }
  let hd (p : Program) : Head :=
    { exposingH0 p none (some 9) with ctx := { (exposingH0 p none none).ctx with startLine := some 2 } }
  { (State.reset.setHead 0 (hd p)).setHead 1 (hd { p with priority := .urgent }) with
    arb := { State.reset.arb with linkEnable := true } }

/-- R117: with the grant between the two joins H0 is granted, with both joins first URGENT H1 stands in front. -/
theorem witness_EventGoesToEveryReachedHead_turns :
    (allHeads.filter fun h => (twoWidth.head h).releaseReaches 2) = [0, 1]
    ∧ (receiveRelease 2 0 twoWidth).grantDue = true ∧ (receiveRelease 2 2 twoWidth).grantDue = false
    ∧ (receiveRelease 2 1 (tryGrant (receiveRelease 2 0 twoWidth))).arb.port = .busy 0 1 10
    ∧ (receiveRelease 2 1 (tryGrant (receiveRelease 2 0 twoWidth))).arb.queue = [1]
    ∧ (receiveRelease 2 1 (receiveRelease 2 0 twoWidth)).arb.queue = [1, 0] := by decide

theorem witness_EventGoesToEveryReachedHead :
    (tin3.setLine 3 ⟨true, 40, some ⟨true, some ⟨false, 0⟩⟩⟩).line 3 = ⟨true, 40, some ⟨true, some ⟨false, 0⟩⟩⟩
    ∧ (let s := tin3.setLine 3 ⟨true, 0, some ⟨true, none⟩⟩
      s.pin 3 ≠ false ∧ (s.line 3).filter = 0 ∧ false ≠ (s.line 3).activeLow)
    ∧ (let s := tin3.setLine 3 ⟨false, 0, some ⟨true, none⟩⟩
      s.pin 3 ≠ false ∧ (s.line 3).filter = 0 ∧ false = (s.line 3).activeLow)
    ∧ (let s := State.reset.setRate 1 ⟨0, 0, 0, 255, some ⟨0, 255⟩⟩
      (s.rate 1).run = some ⟨0, 255⟩ ∧ (s.rate 1).decimation.toNat + 1 ≤ (255#8).toNat + 1) := by decide

/-- A head that LINE2 reaches, in each state of AssertOutcomeByState; and one that it does not reach. -/
theorem witness_AssertOutcomeByState :
    (∀ st ∈ [ExpState.armed, .pacing, .delay, .strobeWait, .exposing, .extending, .blocked],
      (headIn st progQ).state.running = true ∧ (headIn st progQ).ctx.prog.sources.getLsbD (Source.line 2).code = true)
    ∧ (headIn .idle progQ).state.running = false ∧ progP4.delay ≠ 0 ∧ progQ.delay = 0 ∧ progQ.repetition = .trigger
    ∧ (headIn .blocked progQ).ctx.latch = none ∧ progT.repetition = .timer
    ∧ ((spacedH0 .blocked progT (.running 1)).head 0).ctx.spacing ≠ .stopped := by decide

theorem witness_ReleaseOutcomeByState :
    (∀ st ∈ [ExpState.delay, .strobeWait, .exposing, .armed, .pacing, .extending, .blocked],
      let hd : Head := { headIn st progQ with ctx := { Context.cleared with
        prog := { progQ with length := .width }, startLine := some 2, pendingStart := some ⟨.triggered (.line 2), 3, 9⟩ } }
      hd.state.running = true ∧ hd.ctx.prog.length = .width ∧ hd.ctx.startLine = some 2 ∧ hd.ctx.pendingStart.isSome = true)
    ∧ (headIn .exposing progQ).ctx.startLine = none := by decide

theorem witness_LineConfigurationWrites :
    (State.reset.line 7).qualifier = none
    ∧ (tin3.line 3).qualifier = some ⟨true, none⟩ ∧ true = (tin3.line 3).activeLow
    ∧ (let s := tin3.setLine 3 ⟨false, 40, some ⟨true, none⟩⟩
      (s.line 3).qualifier = some ⟨true, none⟩ ∧ true ≠ (s.line 3).activeLow) := by decide

theorem witness_LineSamplingWithoutEvent :
    tin3.pin 3 = true ∧ tin3.pin 3 ≠ false ∧ (State.reset.line 7).qualifier = none ∧ State.reset.pin 7 ≠ true
    ∧ (tin3.line 3).filter ≠ 0 ∧ (⟨true, none⟩ : Qualifier).high ≠ false
    ∧ (let s := (tin3.setLine 3 ⟨true, 40, some ⟨false, some ⟨true, 3⟩⟩⟩)
      s.pin 3 ≠ false ∧ (s.line 3).qualifier = some ⟨false, some ⟨true, 3⟩⟩) := by decide

theorem witness_RateGeneratorRegisters :
    (State.reset.rate 1).run = none
    ∧ (let s := State.reset.setRate 1 ⟨0, 0, 0, 255, some ⟨0, 254⟩⟩
      (s.rate 1).run.isSome = true ∧ (s.rate 1).run = some ⟨0, 254⟩ ∧ (254#8).toNat + 1 < (s.rate 1).decimation.toNat + 1)
    ∧ ∀ k ∈ (State.reset.setRate 1 ⟨0, 0, 0, 255, some ⟨1, 254⟩⟩ |>.rate 1).run, k.left ≠ 0 := by decide

theorem witness_DelayExpiryMakesTheAttempt :
    ((delayDueH0 progQ).head 0).state = .delay ∧ ((delayDueH0 progQ).head 0).timers.delay = some 0
    ∧ ((delayDueH0 progQ).head 0).ctx.pendingStart = some ⟨.triggered (.line 2), 3, 9⟩
    ∧ progQ.strobe = 0 ∧ progP4.strobe.toNat = (1 : ChanIx).val + 1 ∧ ({ progP4 with strobe := 4 } : Program).strobe.toNat
      = (3 : ChanIx).val + 1
    ∧ ((delayDueH0 progP4).chan 1).enabled = false
    ∧ (let s := withS1 (delayDueH0 progP4) ⟨true, false, none, []⟩
      (s.chan 1).enabled = true ∧ (s.chan 1).holder = none)
    ∧ (let s := withS1 (delayDueH0 progP4) ⟨true, false, some 3, []⟩
      (s.chan 1).enabled = true ∧ (s.chan 1).holder ≠ none ∧ (s.head 0).ctx.prog.policy = .wait)
    ∧ ({ progP4 with policy := .dark } : Program).policy = .dark ∧ (State.reset.head 0).state ≠ .delay := by decide

theorem witness_ExposureStartOpensTheGroup :
    ({ progQ with length := .width } : Program).length = .width ∧ progQ.length = .timed
    ∧ (exposingH0 progQ none none).ctx.group = some groupG ∧ (headIn .armed progQ).ctx.group = none := by decide

theorem witness_ExposureEndCondition :
    (let hd := exposingH0 progT (some 0) none;
      hd.timers.integration = some 0 ∧ hd.state = .exposing ∧ hd.ctx.group = some groupG
      ∧ hd.ctx.exposuresDone.toNat + 1 = hd.ctx.prog.accumulate.toNat ∧ hd.slot = .empty
      ∧ ({ hd with slot := .active doneG } : Head).slot ≠ .empty)
    ∧ (let hd := exposingH0 { progQ with length := .width, accumulate := 16 } none (some 0)
      hd.timers.widthLimit = some 0 ∧ ¬ hd.ctx.exposuresDone.toNat + 1 = hd.ctx.prog.accumulate.toNat
      ∧ hd.ctx.prog.repetition = .trigger)
    ∧ (let hd := exposingH0 { progT with accumulate := 2 } (some 0) none
      ¬ hd.ctx.exposuresDone.toNat + 1 = hd.ctx.prog.accumulate.toNat ∧ hd.ctx.prog.repetition = .timer)
    ∧ ((spacedH0 .exposing progT (.running 1)).head 0).ctx.spacing = .running 1
    ∧ ((spacedH0 .exposing progT (.expired 1 5)).head 0).ctx.spacing = .expired 1 5
    ∧ (∀ n : ChanIx, 0 ∉ (State.reset.chan n).waiters)
    ∧ (headIn .armed progQ).state ≠ .exposing ∧ (exposingH0 progQ (some 1) none).timers.integration ≠ some 0
    ∧ (exposingH0 progQ none (some 1)).timers.widthLimit ≠ some 0 ∧ (exposingH0 progQ none none).timers.integration ≠ some 0 := by
  decide

theorem witness_BurstCourseAfterAGroup :
    (endedH0 3 1 true progQ).ctx.stopPending = true
    ∧ (let hd := endedH0 255 255 false progQ
      hd.ctx.stopPending = false ∧ hd.ctx.prog.burst ≠ 0 ∧ hd.ctx.groupsDone = hd.ctx.prog.burst ∧ hd.ctx.prog.link = 0)
    ∧ (endedH0 1 1 false { progQ with link := 32 }).ctx.prog.link.toNat = (31 : EntryIx).val + 1
    ∧ validate (State.reset.entry 31) = some .invalidEntry
    ∧ validate ((State.reset.setEntry 31 ⟨true, progP4⟩).entry 31) = none
    ∧ (endedH0 0 9 false progQ).ctx.prog.burst = 0 ∧ (endedH0 3 2 false progQ).ctx.groupsDone ≠ 3
    ∧ progQ.overlap = .strict ∧ ({ progQ with overlap := .overlap } : Program).repetition = .trigger
    ∧ ({ progT with overlap := .overlap } : Program).repetition = .timer := by decide

theorem witness_PacedAttempts :
    (∀ st ∈ [ExpState.pacing, .exposing, .blocked],
      ((spacedH0 st progT (.running 0)).head 0).ctx.spacing = .running 0 ∧ ((spacedH0 st progT (.running 0)).head 0).state = st)
    ∧ ((spacedH0 .pacing progT (.running 1)).head 0).ctx.spacing ≠ .running 0
    ∧ (let hd : Head := { (spacedH0 .pacing progT (.expired 1 5)).head 0 with
        timers := { HeadTimers.stopped with retry := .due } }
      hd.state = .pacing ∧ hd.timers.retry = .due ∧ hd.ctx.spacing = .expired 1 5) := by decide

theorem witness_StrobeWaitExpiryDropsTheStart :
    (∀ k ∈ [StartKind.triggered (.line 2), .latched .soft, .paced],
      let hd := (waitDueH0 progP4 k .stopped).head 0
      hd.state = .strobeWait ∧ hd.timers.strobeWait = some 0 ∧ hd.ctx.pendingStart = some ⟨k, 3, 9⟩)
    ∧ ({ progT with strobeWait := 0 } : Program).strobeWait = 0 ∧ progT.strobeWait ≠ 0
    ∧ ((waitDueH0 progT .paced (.expired 9 3)).head 0).ctx.spacing = .expired 9 3
    ∧ (State.reset.head 0).state ≠ .strobeWait := by decide

theorem witness_StrobeConfigurationWrites :
    (State.reset.chan 3).enabled = false ∧ ((withS1 State.reset ⟨true, false, some 0, [2]⟩).chan 1).enabled = true := by
  decide

theorem witness_ReleaseHandsTheChannelOn :
    (∀ n : ChanIx, (State.reset.chan n).holder ≠ some 0)
    ∧ (let s := withS1 State.reset ⟨true, false, some 3, []⟩
      (s.chan 1).holder = some 3 ∧ (∀ k : ChanIx, (s.chan k).holder = some 3 → k = 1) ∧ (s.chan 1).waiters = [])
    ∧ (let s := waitDueH0 progP4 .paced .stopped |>.setChan 1 ⟨true, false, some 3, [0, 2]⟩
      (s.chan 1).holder = some 3 ∧ (∀ k : ChanIx, (s.chan k).holder = some 3 → k = 1) ∧ (s.chan 1).waiters = [0, 2]
      ∧ (s.head 0).ctx.pendingStart = some ⟨.paced, 3, 9⟩) := by decide

theorem witness_GrantAndLinkEnable :
    (let s : State := { State.reset.setHead 0 { headIn .blocked progQ with slot := .queued doneG } with
        arb := { State.reset.arb with queue := [0, 1] } };
      s.arb.port = .idle ∧ s.arb.queue = 0 :: [1] ∧ (s.head 0).slot = .queued doneG ∧ s.arb.linkEnable = false
      ∧ ({ s.arb with linkEnable := true } : Arbiter).linkEnable = true)
    ∧ (readingH0 (headIn .draining progQ)).arb.port ≠ .idle ∧ State.reset.arb.linkEnable = false
    ∧ State.reset.arb.queue = [] := by decide

theorem witness_TransmitterKeepsTheOrder :
    (let l : LinkEnds := ⟨some (.cancel 1), [.start 0 2 5], true⟩;
      l.sending ≠ none ∧ Message.start 0 2 5 ∈ l.waiting ∧ l.waiting = .start 0 2 5 :: [])
    ∧ State.reset.link.sending = none ∧ State.reset.link.waiting = []
    ∧ ({ State.reset with link := ⟨some (.start 3 255 1023), [], true⟩ } : State).link.sending = some (.start 3 255 1023)
    ∧ ({ State.reset with link := ⟨some (.cancel 255), [], true⟩ } : State).link.sending = some (.cancel 255) := by decide

/-- A BUSY port with each state of its head that a matching completion may find. -/
theorem witness_CompleteEndsTheReadout :
    State.reset.link.rxWaitsIdle = true ∧ State.reset.arb.port = .idle
    ∧ (∀ st ∈ [ExpState.draining, .blocked, .armed, .pacing, .delay, .strobeWait, .exposing, .extending],
      let s := readingH0 (headIn st progQ)
      s.link.rxWaitsIdle = false ∧ s.arb.port = .busy 0 42 0 ∧ (s.head 0).slot = .active doneG ∧ (s.head 0).state = st)
    ∧ (44#8) ≠ 42#8
    ∧ (readingH0 { headIn .blocked progQ with ctx := { Context.cleared with latch := some ⟨.line 2, 3, 65535⟩ } }
      |>.head 0).ctx.latch = some ⟨.line 2, 3, 65535⟩
    ∧ (headIn .blocked progQ).ctx.latch = none ∧ (headIn .blocked progQ).ctx.spacing = .stopped
    ∧ ((spacedH0 .blocked progT (.running 0)).head 0).ctx.spacing = .running 0
    ∧ ((spacedH0 .blocked progT (.expired 0 5)).head 0).ctx.spacing = .expired 0 5 := by decide

/-- An extension ends with no request waiting, and with one. -/
theorem witness_CompletionEndsTheExtension :
    (let s := readingH0 (exposingH0 progQ none none);
      s.link.rxWaitsIdle = false ∧ s.arb.port = .busy 0 42 0 ∧ (s.head 0).slot = .active doneG
      ∧ ({ s with arb := { s.arb with port := .idle } } : State).grantDue = false
      ∧ ({ s with arb := { s.arb with port := .idle, queue := [1] } } : State).grantDue = true)
    ∧ (let s := readingH0 { exposingH0 progQ none none with state := .extending }
      (s.head 0).state = .extending ∧ (s.head 0).ctx.group = some groupG ∧ (∀ n : ChanIx, 0 ∉ (s.chan n).waiters)
      ∧ s.arb.linkEnable = true ∧ s.arb.queue = []) := by decide

theorem witness_ReadoutTimeoutFaultsTheHead :
    (readingH0 (headIn .draining progQ)).arb.port = .busy 0 42 0 ∧ State.reset.arb.port = .idle
    ∧ ((exposingH0 progQ none none).state = .exposing ∧ (exposingH0 progQ none none).ctx.group ≠ none)
    ∧ (headIn .armed progQ).ctx.group = none := by decide

/-- Frames that fail by check, by type and by status; a receiver that takes frames and one that waits. -/
theorem witness_ReceiverCountsLinkErrors :
    crc8 [0xA3, 42, 1, 0, 5] ≠ 0 ∧ (0xA2#8) ≠ 0xA3 ∧ (0x04#8) ∉ [0x01#8, 0x02#8, 0x03#8]
    ∧ (readingH0 (headIn .draining progQ)).link.rxWaitsIdle = false ∧ State.reset.link.rxWaitsIdle = true := by
  decide +kernel

/-- A tick has just ended, and a word of another code and one of the code held; and none has. -/
theorem witness_TimebaseRegisters :
    (let s : State := { State.reset with tb := ⟨7, 0, 0, 0, true, 0⟩ };
      s.tb.fresh = true ∧ (0x0103#16).extractLsb' 0 8 ≠ s.tb.divCode ∧ (0xFF00#16).extractLsb' 0 8 = s.tb.divCode)
    ∧ State.reset.tb.fresh = false := by decide

theorem witness_InterruptRegistersAndLine :
    ({ State.reset with irq := ⟨0x8000, 0x8000, false⟩ } : State).irqRequest = true
    ∧ (let s := { withQueue State.reset [.mark 0] with irq := ⟨0, 0x0001, false⟩ }
      s.queue.threshold ≤ s.queue.occupancy ∧ s.irqRequest = true)
    ∧ State.reset.irqRequest = false := by decide

set_option synthInstance.maxHeartbeats 400000 in
set_option synthInstance.maxSize 4096 in
/-- A state with a readout in progress meets every law, and a step is answered there. -/
theorem witness_Laws :
    (let s := readingH0 { headIn .draining progQ with slot := .active doneG };
      s.queue.WF ∧ s.LineLaw ∧ s.ClockLaw ∧ s.HeadStateLaw ∧ s.RingLaw ∧ s.ArbiterLaw ∧ s.StrobeLaw ∧ s.ContextLaw
      ∧ s.TransmitterLaw)
    ∧ gives .readoutTimeout (readingH0 (headIn .draining progQ)) (fun t => t.queue.records.length = 1) = true := by decide

set_option synthInstance.maxHeartbeats 400000 in
set_option synthInstance.maxSize 4096 in
/-- R73's law of the latch: under Repeat TIMER a BLOCKED head with a full latch has its spacing timer stopped; its matching
completion then leaves a LATCHED pending start in DELAY, and the law holds there. -/
theorem witness_StepKeepsTheContextLaw_latch :
    let hd : Head := headIn .blocked { progQ with repetition := .timer, spacing := 4, delay := 1 }
    let full (sp : SpacingTimer) : Head :=
      { hd with ctx := { hd.ctx with spacing := sp, latch := some ⟨.line 2, 3, 65535⟩ }, slot := .active doneG }
    (full .stopped).ContextLaw ∧ ¬ (full (.running 5)).ContextLaw
    ∧ gives (.complete 42 .good 5) (readingH0 (full .stopped)) (fun t =>
        (t.head 0).state = .delay ∧ (t.head 0).ctx.pendingStart = some ⟨.latched (.line 2), 3, 65535⟩
        ∧ (t.head 0).ContextLaw) = true := by decide

/-- The START of tag 42 waits behind a frame, and a crossing COMPLETE of tag 41 stands in front: it is counted stray. -/
theorem witness_StepKeepsTheTransmitterLaw :
    (let s : State := { readingH0 (headIn .draining progQ) with
        link := ⟨some (.cancel 41), [.start 0 42 0], false⟩, pending := [.complete 41 .good 5] };
      s.TransmitterLaw ∧ s.ArbiterLaw ∧ Message.start 0 42 0 ∈ s.link.waiting
      ∧ s.pending.head? = some (.complete 41 .good 5) ∧ (41#8) ≠ 42#8
      ∧ gives (.complete 41 .good 5) s (fun t => t.arb.stray = 1 ∧ t.link = s.link) = true)
    ∧ examineFrame ⟨0xA3, 42, 1, 0, 5, 0⟩ ≠ some (42, .good, 5) := by
  constructor
  · decide
  · decide +kernel

/-- H0 leaves DRAINING for IDLE by a completion, and for FAULT by a timeout. -/
theorem witness_DoneAndFaultAreRaised :
    (readingH0 (headIn .draining progQ)).HeadStateLaw
    ∧ ((readingH0 (headIn .draining progQ)).head 0).state ∉ [.off, .idle, .fault]
    ∧ gives (.complete 42 .good 5) (readingH0 (headIn .draining progQ)) (fun t => (t.head 0).state = .idle) = true
    ∧ gives .readoutTimeout (readingH0 (headIn .draining progQ)) (fun t => (t.head 0).state = .fault) = true := by decide

theorem witness_RecordsAreAppendedAtTheTail :
    gives (.mark 0) (args 7) (fun t => t.queue.records = [.mark 7]) = true
    ∧ (Instr.mark 0 ≠ .queueRead ∧ Instr.mark 0 ≠ .powerOnReset)
    ∧ (∀ u : Byte, Instr.mark 0 ≠ .discard u ∧ Instr.mark 0 ≠ .softReset u)
    ∧ ∀ w : Word, Instr.mark 0 ≠ .registerWrite w ∧ Instr.mark 0 ≠ .unlistedCommand w :=
  ⟨by decide, ⟨nofun, nofun⟩, fun _ => ⟨nofun, nofun⟩, fun _ => ⟨nofun, nofun⟩⟩

end Sys2Proof.Tests
end

section
/-! PROOFS. The statements of the program table: PROGRAM_WRITE, PROGRAM_READ, PROGRAM_CLEAR and validation (R13 to R16).
First what a command word leaves at the port, then the descriptor buffer position by position, then the checks of
Table 1.3, and last the statements. -/

namespace Sys2Proof.Machine

/-! ## Command words -/

/-- RESULT holds nothing outside the items of Table 11.5. -/
theorem resultWord_and_items (v : Verdict) (code : Byte) : resultWord v code &&& 0xF7FF = resultWord v code := by
  have upper : (BitVec.ofBool (v ≠ .done) ++ v.reason ++ 0#1 ++ v.validation : Byte) &&& 0xF7
      = BitVec.ofBool (v ≠ .done) ++ v.reason ++ 0#1 ++ v.validation := by
    cases v with
    | program c => cases c <;> rfl
    | done | badHead | badArg | state | badSet | full => rfl
  have items : (0xF7FF : Word) = (0xF7 : Byte) ++ BitVec.allOnes 8 := by decide
  calc resultWord v code &&& 0xF7FF
      = ((BitVec.ofBool (v ≠ .done) ++ v.reason ++ 0#1 ++ v.validation : Byte) &&& 0xF7)
          ++ (code &&& BitVec.allOnes 8) := by rw [items]; exact BitVec.and_append
    _ = resultWord v code := by rw [upper, BitVec.and_allOnes]; rfl

/-- A command word is its act, with the outcome noted at the port. -/
theorem commandWord_frame {act : State → Verdict × State} {s t : State} {v : Verdict} (e : act s = (v, t))
    (c : CmdName) (u : Byte) : ∃ p : HostPort,
    commandWord c act u s = { t with port := p } ∧ p.result &&& 0xF7FF = resultWord v (codeOfCmd c) :=
  ⟨(commandWord c act u s).port, by simp only [commandWord, takeWith, e, afterWrite],
    by simp only [commandWord, takeWith, e, afterWrite]; exact resultWord_and_items v _⟩

/-- A command whose act changes nothing leaves all but the port. -/
theorem commandWord_unchanged {act : State → Verdict × State} {s : State} {v : Verdict} (e : act s = (v, s))
    (c : CmdName) (u : Byte) :
    (commandWord c act u s).port.result &&& 0xF7FF = resultWord v (codeOfCmd c)
      ∧ { commandWord c act u s with port := s.port } = s := by
  obtain ⟨p, hp, hr⟩ := commandWord_frame e c u
  rw [hp]
  exact ⟨hr, rfl⟩

/-! ## The table commands by their entry argument -/

section TableCommands

variable {s : State} {n : EntryIx}

theorem cmdProgramWrite_entry (hn : s.port.arg0.toNat = n.val) :
    cmdProgramWrite s = (.done, s.setEntry n ⟨true, programOfBuffer s.buffer⟩) := by
  simp only [cmdProgramWrite, entryArg_eq hn]

theorem cmdProgramWrite_badArg (hn : 31 < s.port.arg0.toNat) : cmdProgramWrite s = (.badArg, s) := by
  simp only [cmdProgramWrite, entryArg_above hn]

theorem cmdProgramRead_entry (hn : s.port.arg0.toNat = n.val) :
    cmdProgramRead s = (.done, { s with buffer := bufferOfEntry (s.entry n) }) := by
  simp only [cmdProgramRead, entryArg_eq hn]

theorem cmdProgramRead_badArg (hn : 31 < s.port.arg0.toNat) : cmdProgramRead s = (.badArg, s) := by
  simp only [cmdProgramRead, entryArg_above hn]

theorem cmdProgramClear_entry (hn : s.port.arg0.toNat = n.val) :
    cmdProgramClear s = (.done, s.setEntry n ⟨false, (s.entry n).prog⟩) := by
  simp only [cmdProgramClear, entryArg_eq hn]

theorem cmdProgramClear_badArg (hn : 31 < s.port.arg0.toNat) : cmdProgramClear s = (.badArg, s) := by
  simp only [cmdProgramClear, entryArg_above hn]

end TableCommands

/-! ## The descriptor buffer that PROGRAM_READ fills, position by position (Table 11.2) -/

section Buffer

variable (e : Entry)

/-- A 24-bit code stands whole in two words, the high word's upper byte aside. -/
theorem ticks24_of_words (x : Ticks24) :
    (0#8 ++ x.extractLsb' 16 8 : Word).extractLsb' 0 8 ++ x.extractLsb' 0 16 = x :=
  calc (0#8 ++ x.extractLsb' 16 8 : Word).extractLsb' 0 8 ++ x.extractLsb' 0 16
      = x.extractLsb' 16 8 ++ x.extractLsb' 0 16 := congrArg (· ++ _) BitVec.extractLsb'_append_eq_right
    _ = x := BitVec.extractLsb'_append_extractLsb'

/-- The upper byte of a 24-bit code's high word carries no field. -/
theorem ticks24_high_byte (x : Ticks24) : (0#8 ++ x.extractLsb' 16 8 : Word).extractLsb' 8 8 = 0 :=
  BitVec.extractLsb'_append_eq_left

theorem bufferOfEntry_valid : (bufferOfEntry e)[0].getLsbD 15 = e.valid :=
  calc (bufferOfEntry e)[0].getLsbD 15
      = (BitVec.ofBool e.valid ++ 0#4).getLsbD 4 := BitVec.getLsbD_append
    _ = (BitVec.ofBool e.valid).getLsbD 0 := BitVec.getLsbD_append
    _ = e.valid := by simp

theorem bufferOfEntry_sources : (bufferOfEntry e)[0].extractLsb' 0 11 = e.prog.sources :=
  BitVec.extractLsb'_append_eq_right

theorem bufferOfEntry_zero_DB0 : (bufferOfEntry e)[0].extractLsb' 11 4 = 0 :=
  calc (bufferOfEntry e)[0].extractLsb' 11 4
      = (BitVec.ofBool e.valid ++ 0#4).extractLsb' 0 4 := BitVec.extractLsb'_append_eq_of_le (by decide)
    _ = 0 := BitVec.extractLsb'_append_eq_right

theorem bufferOfEntry_twoValued {i : Nat} (hi : i < 6) :
    (bufferOfEntry e)[3].getLsbD i = e.prog.twoValued.getLsbD i :=
  BitVec.getLsbD_append.trans (if_pos hi)

theorem bufferOfEntry_zero_DB3 : (bufferOfEntry e)[3].extractLsb' 6 2 = 0 :=
  calc (bufferOfEntry e)[3].extractLsb' 6 2
      = (e.prog.fields ++ e.prog.strobe ++ 0#2).extractLsb' 0 2 := BitVec.extractLsb'_append_eq_of_le (by decide)
    _ = 0 := BitVec.extractLsb'_append_eq_right

theorem bufferOfEntry_strobe : (bufferOfEntry e)[3].extractLsb' 8 3 = e.prog.strobe :=
  calc (bufferOfEntry e)[3].extractLsb' 8 3
      = (e.prog.fields ++ e.prog.strobe ++ 0#2).extractLsb' 2 3 := BitVec.extractLsb'_append_eq_of_le (by decide)
    _ = (e.prog.fields ++ e.prog.strobe).extractLsb' 0 3 := BitVec.extractLsb'_append_eq_of_le (by decide)
    _ = e.prog.strobe := BitVec.extractLsb'_append_eq_right

theorem bufferOfEntry_fields : (bufferOfEntry e)[3].extractLsb' 11 5 = e.prog.fields :=
  calc (bufferOfEntry e)[3].extractLsb' 11 5
      = (e.prog.fields ++ e.prog.strobe ++ 0#2).extractLsb' 5 5 := BitVec.extractLsb'_append_eq_of_le (by decide)
    _ = (e.prog.fields ++ e.prog.strobe).extractLsb' 3 5 := BitVec.extractLsb'_append_eq_of_le (by decide)
    _ = e.prog.fields := BitVec.extractLsb'_append_eq_left

theorem bufferOfEntry_accumulate : (bufferOfEntry e)[6].extractLsb' 0 5 = e.prog.accumulate :=
  BitVec.extractLsb'_append_eq_right

theorem bufferOfEntry_zero_DB6 : (bufferOfEntry e)[6].extractLsb' 5 3 = 0 :=
  calc (bufferOfEntry e)[6].extractLsb' 5 3
      = (e.prog.burst ++ 0#3).extractLsb' 0 3 := BitVec.extractLsb'_append_eq_of_le (by decide)
    _ = 0 := BitVec.extractLsb'_append_eq_right

theorem bufferOfEntry_burst : (bufferOfEntry e)[6].extractLsb' 8 8 = e.prog.burst :=
  calc (bufferOfEntry e)[6].extractLsb' 8 8
      = (e.prog.burst ++ 0#3).extractLsb' 3 8 := BitVec.extractLsb'_append_eq_of_le (by decide)
    _ = e.prog.burst := BitVec.extractLsb'_append_eq_left

theorem bufferOfEntry_link : (bufferOfEntry e)[12].extractLsb' 0 6 = e.prog.link :=
  BitVec.extractLsb'_append_eq_right

theorem bufferOfEntry_zero_DB12 : (bufferOfEntry e)[12].extractLsb' 6 10 = 0 :=
  BitVec.extractLsb'_append_eq_left

/-- Bit i of six appended bits, the last one bit 0. -/
theorem getLsbD_six_bits : ∀ a b c d e f : Bool,
    let x := BitVec.ofBool a ++ BitVec.ofBool b ++ BitVec.ofBool c ++ BitVec.ofBool d ++ BitVec.ofBool e ++ BitVec.ofBool f
    x.getLsbD 0 = f ∧ x.getLsbD 1 = e ∧ x.getLsbD 2 = d ∧ x.getLsbD 3 = c ∧ x.getLsbD 4 = b ∧ x.getLsbD 5 = a := by
  decide

/-- The two-valued fields at their bits of DB3. -/
theorem bufferOfEntry_flags :
    (bufferOfEntry e)[3].getLsbD 0 = decide (e.prog.length = .width)
    ∧ (bufferOfEntry e)[3].getLsbD 1 = decide (e.prog.repetition = .timer)
    ∧ (bufferOfEntry e)[3].getLsbD 2 = decide (e.prog.overlap = .overlap)
    ∧ (bufferOfEntry e)[3].getLsbD 3 = decide (e.prog.policy = .dark)
    ∧ (bufferOfEntry e)[3].getLsbD 4 = decide (e.prog.priority = .urgent)
    ∧ (bufferOfEntry e)[3].getLsbD 5 = e.prog.dropNotices := by
  simp only [bufferOfEntry_twoValued e (show 0 < 6 by decide), bufferOfEntry_twoValued e (show 1 < 6 by decide),
    bufferOfEntry_twoValued e (show 2 < 6 by decide), bufferOfEntry_twoValued e (show 3 < 6 by decide),
    bufferOfEntry_twoValued e (show 4 < 6 by decide), bufferOfEntry_twoValued e (show 5 < 6 by decide)]
  exact getLsbD_six_bits _ _ _ _ _ _

/-- Each two-valued field is the choice that its own code makes. -/
theorem Program.eq_of_twoValued (p : Program) :
    { p with
      length := if p.length = .width then .width else .timed
      repetition := if p.repetition = .timer then .timer else .trigger
      overlap := if p.overlap = .overlap then .overlap else .strict
      policy := if p.policy = .dark then .dark else .wait
      priority := if p.priority = .urgent then .urgent else .normal } = p := by
  obtain ⟨_, _, length, _, _, _, repetition, _, mode, _, policy, _, priority, _, _, _, _⟩ := p
  congr
  · cases length <;> rfl
  · cases repetition <;> rfl
  · cases mode <;> rfl
  · cases policy <;> rfl
  · cases priority <;> rfl

/-- The buffer filled from an entry holds the entry's program (Table 11.2). -/
theorem programOfBuffer_bufferOfEntry : programOfBuffer (bufferOfEntry e) = e.prog := by
  obtain ⟨hlength, hrepetition, hoverlap, hpolicy, hpriority, hdrop⟩ := bufferOfEntry_flags e
  simp only [programOfBuffer, bufferOfEntry_sources, bufferOfEntry_strobe, bufferOfEntry_fields,
    bufferOfEntry_accumulate, bufferOfEntry_burst, bufferOfEntry_link, hlength, hrepetition, hoverlap, hpolicy,
    hpriority, hdrop, decide_eq_true_eq]
  have hdelay : (bufferOfEntry e)[2].extractLsb' 0 8 ++ (bufferOfEntry e)[1] = e.prog.delay := ticks24_of_words _
  have hwidth : (bufferOfEntry e)[5].extractLsb' 0 8 ++ (bufferOfEntry e)[4] = e.prog.widthLimit := ticks24_of_words _
  have hspacing : (bufferOfEntry e)[8].extractLsb' 0 8 ++ (bufferOfEntry e)[7] = e.prog.spacing := ticks24_of_words _
  have hreadout : (bufferOfEntry e)[11].extractLsb' 0 8 ++ (bufferOfEntry e)[10] = e.prog.readoutLimit :=
    ticks24_of_words _
  rw [hdelay, hwidth, hspacing, hreadout]
  exact e.prog.eq_of_twoValued

/-- The buffer filled from an entry never written since power-on is all zero (R1, R14). -/
theorem bufferOfEntry_zero : bufferOfEntry ⟨false, Program.zero⟩ = Vector.replicate 16 0 := by decide

end Buffer

/-- Every entry of the power-on table is invalid with zero codes (R1). -/
theorem entry_of_reset_table {s : State} (hs : s.table = State.reset.table) (n : EntryIx) :
    s.entry n = ⟨false, Program.zero⟩ := by
  simp only [State.entry, hs, State.reset]
  exact Vector.getElem_replicate _

/-! ## Validation (Table 1.3) -/

theorem oneLine_iff (sources : BitVec 11) : oneLine sources = true ↔ ∃ n : LineIx, sources = 1#11 <<< n.val := by
  have hall : ∀ n : LineIx, n ∈ allLines := by decide
  simp only [oneLine, List.any_eq_true, beq_iff_eq]
  exact ⟨fun ⟨n, _, hn⟩ => ⟨n, hn⟩, fun ⟨n, hn⟩ => ⟨n, hall n, hn⟩⟩

/-- R16's list of codes outside their ranges, each bounded above by its own width. -/
theorem Program.outOfRange_iff (p : Program) : p.outOfRange = true ↔
    1048575 < p.delay.toNat ∨ (p.widthLimit = 0 ∧ p.length = .width) ∨ p.accumulate = 0
      ∨ 16 < p.accumulate.toNat ∨ (p.spacing = 0 ∧ p.repetition = .timer)
      ∨ (5 ≤ p.strobe.toNat ∧ p.strobe.toNat ≤ 7) ∨ p.readoutLimit = 0
      ∨ (33 ≤ p.link.toNat ∧ p.link.toNat ≤ 63) := by
  have hstrobe : p.strobe.toNat > 4 ↔ 5 ≤ p.strobe.toNat ∧ p.strobe.toNat ≤ 7 := by
    have := p.strobe.isLt
    omega
  have hlink : p.link.toNat > 32 ↔ 33 ≤ p.link.toNat ∧ p.link.toNat ≤ 63 := by
    have := p.link.isLt
    omega
  simp only [Program.outOfRange, Bool.or_eq_true, Bool.and_eq_true, decide_eq_true_eq, hstrobe, hlink, or_assoc,
    and_comm (a := p.length = .width), and_comm (a := p.repetition = .timer), gt_iff_lt]

/-- An invalid entry fails the first check, whatever its codes. -/
theorem validate_invalid {e : Entry} (hv : e.valid = false) : validate e = some .invalidEntry := by
  simp [validate, hv]

/-- Validation of a valid entry, its checks as the propositions of Table 1.3. -/
theorem validate_valid {e : Entry} (hv : e.valid = true) : validate e =
    if e.prog.sources = 0 then some .noSource
    else if e.prog.length = .width ∧ ¬ oneLine e.prog.sources = true then some .widthSource
    else if e.prog.length = .width ∧ e.prog.repetition = .timer then some .widthRepeat
    else if e.prog.outOfRange = true then some .range
    else none := by
  simp [validate, hv]

/-! ## A chain to an invalid entry -/

/-- A Link code from 1 to 32 names its entry (R12). -/
theorem Program.linkEntry_eq {p : Program} {n : EntryIx} (hn : p.link.toNat = n.val + 1) : p.linkEntry = some n := by
  simp only [Program.linkEntry, hn]
  rw [dif_pos (by omega)]
  rfl

/-- A burst that ends COMPLETE chains to the entry its Link names (R64). -/
theorem decideBurst_chains {h : HeadIx} {s : State} {n : EntryIx} (hstop : (s.head h).ctx.stopPending = false)
    (hburst : (s.head h).ctx.prog.burst ≠ 0) (hdone : (s.head h).ctx.groupsDone = (s.head h).ctx.prog.burst)
    (hlink : (s.head h).ctx.prog.link.toNat = n.val + 1) : decideBurst h s = chainTo h n s := by
  simp only [decideBurst, hstop, Program.linkEntry_eq hlink]
  rw [if_neg Bool.false_ne_true, if_pos ⟨hburst, hdone⟩]

/-- A chain to a refused entry ends the burst LINK_INVALID with the refusal's code (R64). -/
theorem chainTo_refused {h : HeadIx} {s : State} {n : EntryIx} {code : ValCode}
    (hcode : validate (s.entry n) = some code) : chainTo h n s
      = enterDraining h (offer h (.burstEnd .linkInvalid (some code) (s.head h).ctx.progIndex (some n)) s) := by
  simp only [chainTo, hcode]

/-- START of an entry that validation refuses answers its code and loads nothing (R43). -/
theorem cmdStart_refused {s : State} {h : HeadIx} {n : EntryIx} {code : ValCode} (hh : s.port.arg0.toNat = h.val)
    (hn : s.port.arg1.toNat = n.val) (hidle : (s.head h).state = .idle)
    (hcode : validate (s.entry n) = some code) : cmdStart s = (.program code, s) := by
  simp only [cmdStart, headArg_eq hh, entryArg_eq hn, hidle, if_true, hcode]

end Sys2Proof.Machine

/-! ## The statements -/

namespace Sys2Proof.Proofs

open Sys2Proof.Machine

/-- Settles O12: PROGRAM_READ's buffer read position by position. -/
theorem programReadFillsBuffer : Obligations.ProgramReadFillsBuffer := by
  intro u s
  refine ⟨commandWord .programRead cmdProgramRead u s, rfl, fun n hn => ?_, fun hn => ?_⟩
  · obtain ⟨p, hp, hr⟩ := commandWord_frame (cmdProgramRead_entry hn) .programRead u
    rw [hp]
    have hzero (hs : s.table = State.reset.table) (i : Fin 16) : (bufferOfEntry (s.entry n))[i.val]'i.isLt = 0 := by
      simp only [entry_of_reset_table hs, bufferOfEntry_zero, Vector.getElem_replicate]
    exact ⟨programOfBuffer_bufferOfEntry _, bufferOfEntry_valid _, bufferOfEntry_zero_DB0 _, ticks24_high_byte _,
      bufferOfEntry_zero_DB3 _, ticks24_high_byte _, bufferOfEntry_zero_DB6 _, ticks24_high_byte _,
      ticks24_high_byte _, bufferOfEntry_zero_DB12 _, rfl, rfl, rfl, hzero, hr, rfl⟩
  · exact commandWord_unchanged (cmdProgramRead_badArg hn) .programRead u

/-- Settles O14: validation's chain of checks, each check in the words of Table 1.3. -/
theorem validationOrder : Obligations.ValidationOrder := by
  intro e p noLine widthTimer range
  have hline : noLine ↔ e.prog.length = .width ∧ ¬ oneLine e.prog.sources = true :=
    and_congr_right fun _ => not_congr (oneLine_iff _).symm
  have hrange : range ↔ e.prog.outOfRange = true := e.prog.outOfRange_iff.symm
  refine ⟨validate_invalid, fun hv h₁ => ?_, fun hv h₁ h₂ => ?_, fun hv h₁ h₂ h₃ => ?_, fun hv h₁ h₂ h₃ h₄ => ?_,
    fun hv h₁ h₂ h₃ h₄ => ?_⟩ <;> rw [validate_valid hv]
  · rw [if_pos h₁]
  · rw [if_neg h₁, if_pos (hline.1 h₂)]
  · rw [if_neg h₁, if_neg (mt hline.2 h₂), if_pos h₃]
  · rw [if_neg h₁, if_neg (mt hline.2 h₂), if_neg h₃, if_pos (hrange.1 h₄)]
  · rw [if_neg h₁, if_neg (mt hline.2 h₂), if_neg h₃, if_neg (mt hrange.2 h₄)]

/-- Settles O11. -/
theorem programWriteCopiesBuffer : Obligations.ProgramWriteCopiesBuffer := by
  intro u s
  refine ⟨commandWord .programWrite cmdProgramWrite u s, rfl, fun n hn => ?_, fun hn => ?_⟩
  · obtain ⟨p, hp, hr⟩ := commandWord_frame (cmdProgramWrite_entry hn) .programWrite u
    rw [hp]
    exact ⟨entry_setEntry_self s n _, fun k hk => entry_setEntry_ne s hk _, hr, rfl⟩
  · exact commandWord_unchanged (cmdProgramWrite_badArg hn) .programWrite u

/-- Settles O13: the clearing itself, then the two loads of an invalid entry, by START and by a Link. -/
theorem programClearKeepsCodes : Obligations.ProgramClearKeepsCodes := by
  refine ⟨fun u s => ⟨commandWord .programClear cmdProgramClear u s, rfl, fun n hn => ?_, fun hn => ?_⟩, ?_, ?_⟩
  · obtain ⟨p, hp, hr⟩ := commandWord_frame (cmdProgramClear_entry hn) .programClear u
    rw [hp]
    have hself : (s.setEntry n ⟨false, (s.entry n).prog⟩).entry n = ⟨false, (s.entry n).prog⟩ :=
      entry_setEntry_self s n _
    refine ⟨hself, fun k hk => entry_setEntry_ne s hk _, hr, validate_invalid (congrArg Entry.valid hself), ?_, rfl⟩
    intro hv
    have hsame : (⟨false, (s.entry n).prog⟩ : Entry) = s.entry n := by rw [← hv]
    rw [hsame, setEntry_entry]
  · exact commandWord_unchanged (cmdProgramClear_badArg hn) .programClear u
  · intro u s h n hh hn hidle hv
    exact ⟨_, rfl, commandWord_unchanged (cmdStart_refused hh hn hidle (validate_invalid hv)) .start u⟩
  · intro h s n hstop hburst hdone hlink hv
    rw [decideBurst_chains hstop hburst hdone hlink, chainTo_refused (validate_invalid hv)]

end Sys2Proof.Proofs
end

section
/-! PROOFS. The statements of MARK and DISCARD (R138, R146). First the MARK record and the queue without its oldest record,
then MARK's act by the free space and DISCARD's by the queue's records, and last the statements. -/

namespace Sys2Proof.Machine

/-! ## The MARK record (Tables 8.1, 11.7) -/

/-- A MARK record is its HDR and the tag; HDR holds type MARK 6, origin HOST 5, RESTART clear and length 2 (R138). -/
theorem mark_words (tag : Word) : ∃ hdr : Word, (Record.mark tag).words = [hdr, tag]
    ∧ hdr.extractLsb' 13 3 = 6 ∧ hdr.extractLsb' 10 3 = 5 ∧ hdr.getLsbD 9 = false ∧ hdr.extractLsb' 0 4 = 2 :=
  ⟨hdrWord 6 5 false 2, rfl, by decide⟩

/-! ## The queue without its oldest record -/

section DropOldest

variable {q : RecordQueue} {r : Record} {rs : List Record}

theorem RecordQueue.dropOldest_nil (e : q.records = []) : q.dropOldest = q := by
  simp only [RecordQueue.dropOldest, e]

theorem RecordQueue.dropOldest_cons (e : q.records = r :: rs) :
    q.dropOldest = { q with records := rs, readPos := 0 } := by
  simp only [RecordQueue.dropOldest, e]

/-- The words to be read are the oldest record's unread ones and those of the records behind it (R130). -/
theorem RecordQueue.occupancy_cons (e : q.records = r :: rs) :
    q.occupancy = r.words.length + (rs.map Record.len).sum - q.readPos := by
  simp only [RecordQueue.occupancy, e, List.map_cons, List.sum_cons, Record.len]

/-- With the oldest record its unread words leave, and no others. -/
theorem RecordQueue.occupancy_dropOldest (e : q.records = r :: rs) (hpos : q.readPos < r.words.length) :
    q.dropOldest.occupancy = q.occupancy - (r.words.length - q.readPos) := by
  have hbehind : q.dropOldest.occupancy = (rs.map Record.len).sum := by rw [dropOldest_cons e]; rfl
  rw [hbehind, occupancy_cons e]
  omega

end DropOldest

/-! ## The acts of the two commands -/

section QueueCommands

variable {s : State}

theorem cmdMark_fits (hfree : 2 ≤ 512 - s.queue.occupancy) : cmdMark s
    = (.done, { s with queue := { s.queue with records := s.queue.records ++ [.mark s.port.arg0] } }) :=
  if_pos hfree

theorem cmdMark_full (hfree : 512 - s.queue.occupancy < 2) : cmdMark s = (.full, s) :=
  if_neg (Nat.not_le.2 hfree)

theorem cmdDiscard_nil (e : s.queue.records = []) : cmdDiscard s = (.done, s) := by
  simp only [cmdDiscard, RecordQueue.dropOldest_nil e]

end QueueCommands

end Sys2Proof.Machine

/-! ## The statements -/

namespace Sys2Proof.Proofs

open Sys2Proof.Machine

/-- Settles O26: the act at the port, then the queue empty and with an oldest record. -/
theorem discardDropsTheOldestRecord : Obligations.DiscardDropsTheOldestRecord := by
  intro u s
  obtain ⟨p, hp, hr⟩ := commandWord_frame (act := cmdDiscard) (s := s) rfl .discard u
  refine ⟨commandWord .discard cmdDiscard u s, rfl, by rw [hp]; exact hr, by rw [hp], fun hnil => ?_,
    fun r rs hcons => ?_⟩
  · exact (commandWord_unchanged (cmdDiscard_nil hnil) .discard u).2
  · have hq : (commandWord .discard cmdDiscard u s).queue = s.queue.dropOldest := congrArg State.queue hp
    rw [hq]
    exact ⟨RecordQueue.dropOldest_cons hcons, RecordQueue.occupancy_dropOldest hcons⟩

/-- Settles O25, by the free space: at least 2 words, or fewer. -/
theorem markAppendsOrIsRefused : Obligations.MarkAppendsOrIsRefused := by
  intro u s
  refine ⟨commandWord .mark cmdMark u s, rfl, fun hfree => ?_, fun hfull => ?_⟩
  · obtain ⟨p, hp, hr⟩ := commandWord_frame (cmdMark_fits hfree) .mark u
    rw [hp]
    exact ⟨rfl, mark_words s.port.arg0, hr, rfl⟩
  · exact commandWord_unchanged (cmdMark_full hfull) .mark u

end Sys2Proof.Proofs
end

section
/-! PROOFS. What a command's act is made of. Every shared operation is a run of moves, each of which changes a head within
bounds, appends a record, raises a cause or hands a slot on; what every move keeps, every act keeps. -/

namespace Sys2Proof.Machine

/-! ## Rings and their law (R85, R88, R91, R92) -/

/-- APPLY's check of a ring, set by set (R88). -/
theorem Ring.ok_iff (r : Ring) : r.ok = true ↔ 1 ≤ r.length.toNat ∧ r.length.toNat ≤ 8
    ∧ ∀ i : SetIx, i.val < r.length.toNat →
      (r.sets[i.val]'i.isLt).integration ≠ 0 ∧ (r.sets[i.val]'i.isLt).gain.toNat ≤ 1023 := by
  simp only [Ring.ok, SettingSet.ok, Bool.and_eq_true, Bool.or_eq_true, decide_eq_true_eq, List.all_eq_true,
    List.mem_finRange, true_implies, and_assoc]
  refine and_congr_right fun _ => and_congr_right fun _ => forall_congr' fun i => ?_
  exact ⟨fun h hi => h.resolve_left (Nat.not_le.2 hi), fun h => (Nat.lt_or_ge i.val _).symm.imp_right h⟩

theorem nextPointer_lt {p : SetIx} {len : BitVec 4} (h₁ : 1 ≤ len.toNat) (h₈ : len.toNat ≤ 8) :
    (nextPointer p len).val < len.toNat := by
  have hmod : (p.val + 1) % len.toNat < len.toNat := Nat.mod_lt _ h₁
  simp only [nextPointer, Fin.ofNat]
  rwa [Nat.mod_eq_of_lt (by omega)]

namespace HeadRing

variable {r : HeadRing}

theorem commitPending_law (h : r.Law) : r.commitPending.Law := by
  obtain ⟨hlive, hpointer, hstaged⟩ := h
  simp only [commitPending]
  split
  · rename_i hp
    have hok := hstaged hp
    exact ⟨hok, ((Ring.ok_iff _).1 hok).1, fun e => Bool.noConfusion e⟩
  · exact ⟨hlive, hpointer, hstaged⟩

@[simp] theorem commitPending_applyPending : r.commitPending.applyPending = false := by
  simp only [commitPending]
  split
  · rfl
  · rename_i h; exact Bool.eq_false_iff.2 h

theorem advance_law (h : r.Law) : r.advance.Law := by
  obtain ⟨hlive, -, hstaged⟩ := h
  obtain ⟨h₁, h₈, -⟩ := (Ring.ok_iff _).1 hlive
  exact ⟨hlive, nextPointer_lt h₁ h₈, hstaged⟩

@[simp] theorem advance_applyPending : r.advance.applyPending = r.applyPending := rfl

/-- The set at the pointer is one that APPLY accepted. -/
theorem openRecord_setOk (h : r.Law) (now : Stamp) (p : PendingStart) : (openRecord r now p).SetOk :=
  ((Ring.ok_iff _).1 h.1).2.2 r.pointer h.2.1

end HeadRing

/-! ## An exposure start at a head, field by field (R39, R51, R52) -/

namespace Head

variable (hd : Head) (now : Stamp) (p : PendingStart) (locked : Bool)

theorem openGroup_some {g : GroupRecord} (e : hd.ctx.group = some g) : hd.openGroup now p = hd := by
  simp only [openGroup, e]

theorem openGroup_none (e : hd.ctx.group = none) : hd.openGroup now p = { hd with
    ctx := { hd.ctx with group := some (openRecord hd.ring.commitPending now p) }
    ring := hd.ring.commitPending.advance } := by
  simp only [openGroup, e]

/-- A group opening changes the group and the ring alone. -/
theorem openGroup_frame : ∃ g r, hd.openGroup now p = { hd with ctx := { hd.ctx with group := some g }, ring := r } := by
  cases e : hd.ctx.group with
  | some g => exact ⟨g, hd.ring, by rw [openGroup_some _ _ _ e, ← e]⟩
  | none => exact ⟨_, _, openGroup_none _ _ _ e⟩

/-- The head after an exposure start, but for the group and the ring, which the opening may change. -/
theorem startExposure_frame : ∃ g r, hd.startExposure now p locked = { hd with
    state := .exposing
    ring := r
    ctx := { hd.ctx with
      group := some g
      pendingStart := none
      spacing := match hd.ctx.prog.repetition with
        | .timer => .running hd.ctx.prog.spacing.toNat
        | .trigger => hd.ctx.spacing }
    timers := { HeadTimers.stopped with
      exposure := some 0
      integration := match hd.ctx.prog.length with
        | .timed => some g.integration.toNat
        | .width => none
      widthLimit := match hd.ctx.prog.length with
        | .timed => none
        | .width => some hd.ctx.prog.widthLimit.toNat } } := by
  obtain ⟨g, r, e⟩ := openGroup_frame hd now p
  simp only [startExposure, e, Option.map_some]
  exact ⟨_, r, rfl⟩

@[simp] theorem startExposure_state : (hd.startExposure now p locked).state = .exposing := rfl

@[simp] theorem startExposure_enabled : (hd.startExposure now p locked).enabled = hd.enabled := by
  obtain ⟨g, r, e⟩ := startExposure_frame hd now p locked
  rw [e]

@[simp] theorem startExposure_prog : (hd.startExposure now p locked).ctx.prog = hd.ctx.prog := by
  obtain ⟨g, r, e⟩ := startExposure_frame hd now p locked
  rw [e]

@[simp] theorem startExposure_pendingStart : (hd.startExposure now p locked).ctx.pendingStart = none := rfl

theorem startExposure_ring : (hd.startExposure now p locked).ring = (hd.openGroup now p).ring := rfl

theorem startExposure_group : (hd.startExposure now p locked).ctx.group = (hd.openGroup now p).ctx.group.map fun g =>
    { g with
      late := g.late || (decide (p.kind = .paced) && (hd.openGroup now p).ctx.spacing.overdue)
      dark := g.dark || ((hd.openGroup now p).ctx.prog.channel.isSome && !locked) } := rfl

/-- An opening keeps the ring's law, and no APPLY is pending after one. -/
theorem openGroup_ringLaw {hd : Head} (h : hd.RingLaw) (now : Stamp) (p : PendingStart) :
    (hd.openGroup now p).RingLaw := by
  obtain ⟨hring, hpending, hgroup, hslot⟩ := h
  cases e : hd.ctx.group with
  | some g => rw [openGroup_some _ _ _ e]; exact ⟨hring, hpending, hgroup, hslot⟩
  | none =>
    rw [openGroup_none _ _ _ e]
    have hcommitted := HeadRing.commitPending_law hring
    refine ⟨HeadRing.advance_law hcommitted, fun hp => ?_, fun g hg => ?_, hslot⟩
    · simp at hp
    · obtain rfl := Option.some.inj hg
      exact HeadRing.openRecord_setOk hcommitted now p

theorem startExposure_ringLaw {hd : Head} (h : hd.RingLaw) (now : Stamp) (p : PendingStart) (locked : Bool) :
    (hd.startExposure now p locked).RingLaw := by
  obtain ⟨hring, -, hgroup, hslot⟩ := openGroup_ringLaw h now p
  refine ⟨hring, fun _ => rfl, fun g hg => ?_, hslot⟩
  rw [startExposure_group, Option.mem_map] at hg
  obtain ⟨g', hg', rfl⟩ := hg
  exact hgroup g' hg'

theorem startExposure_applyPending {hd : Head} (h : hd.ring.applyPending = false) (now : Stamp) (p : PendingStart)
    (locked : Bool) : (hd.startExposure now p locked).ring.applyPending = false := by
  rw [startExposure_ring]
  cases e : hd.ctx.group with
  | some g => rwa [openGroup_some _ _ _ e]
  | none => rw [openGroup_none _ _ _ e]; simp

end Head

/-! ## Moves -/

/-- The tick in progress is shorter than its divider, and empty where a tick has just ended: ClockLaw's part of the
timebase. -/
abbrev Timebase.Law (tb : Timebase) : Prop :=
  tb.refclks ≤ tb.tickCode.toNat ∧ (tb.fresh = true → tb.refclks = 0)

/-- What a move may do to a head: its enable stays, the ring law is kept, and no APPLY becomes pending. -/
structure Head.Goes (x y : Head) : Prop where
  enabled : y.enabled = x.enabled
  ring : x.RingLaw → y.RingLaw
  applyPending : x.ring.applyPending = false → y.ring.applyPending = false

/-- A move that leaves the arbiter and every slot: a head goes on, into neither IDLE nor FAULT; a head goes on into IDLE
with DONEn or into FAULT with FAULTn; a cause is raised; channels change; a record is offered. -/
inductive QuietMove : State → State → Prop
  | head (s : State) (h : HeadIx) (y : Head) (goes : (s.head h).Goes y) (slot : y.slot = (s.head h).slot)
      (stays : y.state = (s.head h).state ∨ y.state ≠ .idle ∧ y.state ≠ .fault) : QuietMove s (s.setHead h y)
  | ends (s : State) (h : HeadIx) (y : Head) (bit : Word) (goes : (s.head h).Goes y) (slot : y.slot = (s.head h).slot)
      (into : y.state = .idle ∧ bit = doneBit h ∨ y.state = .fault ∧ bit = faultBit h) :
      QuietMove s ((s.setHead h y).raise bit)
  | cause (s : State) (bit : Word) : QuietMove s (s.raise bit)
  | chans (s : State) (cs : Vector Channel 4) : QuietMove s { s with chans := cs }
  | record (s : State) (h : HeadIx) (body : Body) : QuietMove s (offer h body s)

/-- A move: a quiet one; a slot handed on, with the arbiter; every head goes on in its state; a MARK is appended; another block,
but the record queue and the flags, takes a value that keeps its law. -/
inductive Move : State → State → Prop
  | quiet {s t : State} (q : QuietMove s t) : Move s t
  | slot (s : State) (h : HeadIx) (y : Head) (a : Arbiter) (goes : (s.head h).Goes y)
      (stays : y.state = (s.head h).state) : Move s { s.setHead h y with arb := a }
  | heads (s : State) (hs : Vector Head 4)
      (goes : ∀ h : HeadIx, (s.head h).Goes (hs[h.val]'h.isLt) ∧ (hs[h.val]'h.isLt).state = (s.head h).state) :
      Move s { s with heads := hs }
  | mark (s : State) (tag : Word) (fits : 2 ≤ s.queue.free) :
      Move s { s with queue := { s.queue with records := s.queue.records ++ [.mark tag] } }
  | irqSetup (s : State) (w : Word) (high : Bool) (places : w = s.irq.enables ∨ w &&& ~~~causeMask = 0) :
      Move s { s with irq := { s.irq with enables := w, activeHigh := high } }
  | readout (s : State) (a : Arbiter) (l : LinkEnds) : Move s { s with arb := a, link := l }
  | inputs (s : State) (tin : Vector Bool 8) (ls : Vector Line 8) (rs : Vector RateGen 2)
      (follows : s.LineLaw → { s with tin := tin, lines := ls, rates := rs }.LineLaw) :
      Move s { s with tin := tin, lines := ls, rates := rs }
  | registers (s : State) (table : Vector Entry 32) (buffer : Vector Word 16) (tb : Timebase) (port : HostPort)
      (choices : Nat) (clock : s.tb.Law → tb.Law) : Move s
        { s with table := table, buffer := buffer, tb := tb, port := port, choices := choices }

/-- A run of quiet moves. -/
abbrev Course : State → State → Prop := Relation.ReflTransGen QuietMove

/-- A run of moves. -/
abbrev Moves : State → State → Prop := Relation.ReflTransGen Move

theorem Course.moves {s t : State} (c : Course s t) : Moves s t := by
  induction c with
  | refl => exact .refl
  | tail _ last ih => exact ih.tail (.quiet last)

theorem Course.refl (s : State) : Course s s := Relation.ReflTransGen.refl

theorem Moves.refl (s : State) : Moves s s := Relation.ReflTransGen.refl

/-- The last part of a run first, so that it names the state between. -/
theorem Course.after {s t u : State} (b : Course t u) (a : Course s t) : Course s u := Relation.ReflTransGen.trans a b

theorem Moves.after {s t u : State} (b : Moves t u) (a : Moves s t) : Moves s u := Relation.ReflTransGen.trans a b

theorem QuietMove.course {s t : State} (q : QuietMove s t) : Course s t := .single q

theorem Move.moves {s t : State} (m : Move s t) : Moves s t := .single m

/-- A relation that every move satisfies, and that goes on from run to run, holds along every run. -/
theorem Moves.induction {R : State → State → Prop} (refl : ∀ s, R s s) (trans : ∀ {s t u}, R s t → R t u → R s u)
    (move : ∀ {s t}, Move s t → R s t) {s t : State} (m : Moves s t) : R s t := by
  induction m with
  | refl => exact refl s
  | tail _ last ih => exact trans ih (move last)

theorem Course.induction {R : State → State → Prop} (refl : ∀ s, R s s) (trans : ∀ {s t u}, R s t → R t u → R s u)
    (move : ∀ {s t}, QuietMove s t → R s t) {s t : State} (m : Course s t) : R s t := by
  induction m with
  | refl => exact refl s
  | tail _ last ih => exact trans ih (move last)

end Sys2Proof.Machine
end

section
/-! PROOFS. Each shared operation is a run of moves. -/

namespace Sys2Proof.Machine

namespace Head

theorem Goes.refl (x : Head) : x.Goes x := ⟨rfl, id, id⟩

/-- A head goes on with its ring, running while it ran, with accepted sets in its group and its slot. -/
theorem Goes.keeping {x y : Head} (enabled : y.enabled = x.enabled) (ring : y.ring = x.ring)
    (running : x.state.running = true → y.state.running = true)
    (group : x.RingLaw → ∀ g ∈ y.ctx.group, g.SetOk) (slot : x.RingLaw → ∀ c ∈ y.slot.group?, c.record.SetOk) :
    x.Goes y where
  enabled := enabled
  ring law := by
    obtain ⟨hring, hpending, -, -⟩ := id law
    rw [RingLaw, ring]
    exact ⟨hring, fun hp => running (hpending hp), group law, slot law⟩
  applyPending hp := by rwa [ring]

/-- A head goes on with a pending APPLY committed, in whatever state. -/
theorem Goes.committing {x y : Head} (enabled : y.enabled = x.enabled) (ring : y.ring = x.ring.commitPending)
    (group : x.RingLaw → ∀ g ∈ y.ctx.group, g.SetOk) (slot : x.RingLaw → ∀ c ∈ y.slot.group?, c.record.SetOk) :
    x.Goes y where
  enabled := enabled
  ring law := by
    rw [RingLaw, ring]
    refine ⟨HeadRing.commitPending_law law.1, fun hp => ?_, group law, slot law⟩
    simp at hp
  applyPending _ := by rw [ring]; exact HeadRing.commitPending_applyPending

theorem RingLaw.group_ok {x : Head} (law : x.RingLaw) : ∀ g ∈ x.ctx.group, g.SetOk := law.2.2.1

theorem RingLaw.slot_ok {x : Head} (law : x.RingLaw) : ∀ c ∈ x.slot.group?, c.record.SetOk := law.2.2.2

/-- A flag of the group's record, or its SPAN, is no part of its set. -/
theorem RingLaw.map_ok {x : Head} (law : x.RingLaw) {f : GroupRecord → GroupRecord}
    (hf : ∀ g, (f g).integration = g.integration ∧ (f g).gain = g.gain) : ∀ g ∈ x.ctx.group.map f, g.SetOk := by
  intro g hg
  obtain ⟨g', hg', rfl⟩ := Option.mem_map.1 hg
  obtain ⟨hintegration, hgain⟩ := hf g'
  rw [GroupRecord.SetOk, hintegration, hgain]
  exact law.group_ok g' hg'

theorem no_group_ok (g : GroupRecord) (hg : g ∈ (none : Option GroupRecord)) : g.SetOk := by cases hg

theorem startExposure_goes (hd : Head) (now : Stamp) (p : PendingStart) (locked : Bool) :
    hd.Goes (hd.startExposure now p locked) where
  enabled := startExposure_enabled ..
  ring law := startExposure_ringLaw law now p locked
  applyPending hp := startExposure_applyPending hp now p locked

end Head

open Head (Goes)

variable (s : State) (h : HeadIx)

/-! ## Exposure starts and strobe channels -/

theorem startExposure_course (locked : Bool) : Course s (startExposure h locked s) := by
  simp only [startExposure]
  split
  · exact QuietMove.course (.head s h _ (Head.startExposure_goes ..) (Head.startExposure_slot ..) (.inr (by simp)))
  · exact .refl s

theorem setChan_course (n : ChanIx) (c : Channel) : Course s (s.setChan n c) := (QuietMove.chans s _).course

theorem leaveWaiters_course : Course s (leaveWaiters h s) := (QuietMove.chans s _).course

theorem releaseStrobe_course : Course s (releaseStrobe h s) := by
  simp only [releaseStrobe, releaseAt]
  repeat' split
  · exact (startExposure_course _ _ _).after (setChan_course s _ _)
  · exact setChan_course s _ _
  · exact .refl s

/-- A head that keeps ring, group, slot and state, or goes on running, goes on quietly. -/
theorem setHead_course {y : Head} (enabled : y.enabled = (s.head h).enabled) (ring : y.ring = (s.head h).ring)
    (group : (s.head h).RingLaw → ∀ g ∈ y.ctx.group, g.SetOk) (slot : y.slot = (s.head h).slot)
    (stays : y.state = (s.head h).state ∨ y.state.running = true) : Course s (s.setHead h y) := by
  refine QuietMove.course (.head s h y (.keeping enabled ring ?_ group (fun law => slot ▸ law.slot_ok)) slot ?_)
  · rcases stays with e | e
    · rw [e]; exact id
    · exact fun _ => e
  · refine stays.imp_right fun e => ⟨?_, ?_⟩ <;> rintro e' <;> rw [e'] at e <;> cases e

theorem claim_course (n : ChanIx) : Course s (claim h n s) := by
  simp only [claim]
  repeat' split
  · exact startExposure_course s h false
  · exact (startExposure_course _ _ _).after (setChan_course s _ _)
  · exact startExposure_course s h false
  · exact Course.after (setHead_course _ h rfl rfl Head.RingLaw.group_ok rfl (.inr rfl)) (setChan_course s n _)

theorem attemptStart_course : Course s (attemptStart h s) := by
  simp only [attemptStart]
  split
  · exact startExposure_course s h false
  · exact claim_course s h _

theorem pacedAttempt_course (n : Word) (time : Stamp) : Course s (pacedAttempt h n time s) :=
  (attemptStart_course _ h).after (setHead_course s h rfl rfl Head.RingLaw.group_ok rfl (.inl rfl))

theorem enterPacing_course : Course s (enterPacing h s) := by
  have pacing : Course s (s.modHead h fun hd => { hd with state := .pacing, timers := HeadTimers.stopped }) :=
    setHead_course s h rfl rfl Head.RingLaw.group_ok rfl (.inr rfl)
  simp only [enterPacing]
  split
  · exact (pacedAttempt_course _ h _ _).after pacing
  · exact pacing
  · exact pacing

theorem acceptStart_course (p : PendingStart) (src : Source) : Course s (acceptStart h p src s) := by
  have started : Course s (s.modHead h fun hd => { hd with
      ctx := { hd.ctx with pendingStart := some p, startLine := hd.ctx.prog.startLineFor src, latch := none } }) :=
    setHead_course s h rfl rfl Head.RingLaw.group_ok rfl (.inl rfl)
  simp only [acceptStart]
  split
  · exact (attemptStart_course _ h).after started
  · exact Course.after (setHead_course _ h rfl rfl Head.RingLaw.group_ok rfl (.inr rfl)) started

/-! ## Records and drops -/

theorem offer_course (body : Body) : Course s (offer h body s) := (QuietMove.record s h body).course

theorem raise_course (bit : Word) : Course s (s.raise bit) := (QuietMove.cause s bit).course

theorem dropTrigger_course (r : DropReason) (src : Option Source) (time : Stamp) :
    Course s (dropTrigger h r src time s) := by
  have counted : Course s ((s.modHead h fun hd => { hd with drops := satInc hd.drops }).raise dropBit) :=
    (raise_course _ _).after (setHead_course s h rfl rfl Head.RingLaw.group_ok rfl (.inl rfl))
  simp only [dropTrigger]
  split
  · exact (offer_course _ h _).after counted
  · exact counted

/-! ## Burst ends -/

theorem enterDraining_course : Course s (enterDraining h s) := by
  simp only [enterDraining, modHead_eq_setHead, head_setHead_self]
  by_cases hslot : (s.head h).slot = .empty
  · rw [if_pos hslot, if_pos hslot]
    exact QuietMove.course (.ends s h _ (doneBit h) (.committing rfl rfl Head.RingLaw.group_ok Head.RingLaw.slot_ok) rfl
      (.inl ⟨rfl, rfl⟩))
  · rw [if_neg hslot, if_neg hslot]
    exact QuietMove.course (.head s h _ (.committing rfl rfl Head.RingLaw.group_ok Head.RingLaw.slot_ok) rfl
      (.inr (by simp)))

theorem chainTo_course (n : EntryIx) : Course s (chainTo h n s) := by
  simp only [chainTo]
  split
  · exact (enterDraining_course _ h).after (offer_course s h _)
  · refine (offer_course _ h _).after (setHead_course s h ?_ ?_ ?_ ?_ (.inr ?_))
    · rfl
    · rfl
    · exact fun _ => Head.no_group_ok
    · rfl
    · cases (s.entry n).prog.overlap <;> rfl

theorem decideBurst_course : Course s (decideBurst h s) := by
  have drained (body : Body) : Course s (enterDraining h (offer h body s)) :=
    (enterDraining_course _ h).after (offer_course s h _)
  simp only [decideBurst]
  split
  · exact drained _
  split
  · split
    · exact chainTo_course s h _
    · exact drained _
  split
  · exact setHead_course s h rfl rfl Head.RingLaw.group_ok rfl (.inr rfl)
  · exact setHead_course s h rfl rfl Head.RingLaw.group_ok rfl (.inr rfl)
  · exact enterPacing_course s h

/-! ## Exposure ends and group completion -/

theorem endExposure_course : Course s (endExposure h s) :=
  Course.after (setHead_course _ h rfl rfl (fun law => law.map_ok fun _ => ⟨rfl, rfl⟩) rfl (.inl rfl))
    (releaseStrobe_course s h)

theorem completeGroup_moves : Moves s (completeGroup h s) := by
  simp only [completeGroup]
  split
  · exact .refl s
  · rename_i g hg
    refine (decideBurst_course _ h).moves.after (Move.moves (.slot s h _ _ (.keeping rfl rfl id ?_ ?_) rfl))
    · exact fun _ => Head.no_group_ok
    intro law c hc
    obtain rfl := Option.some.inj hc
    exact law.group_ok g hg

theorem endCondition_moves (overrun : Bool) : Moves s (endCondition h overrun s) := by
  simp only [endCondition]
  generalize hu : s.modHead h _ = u
  have flagged : Course s u :=
    hu ▸ setHead_course s h rfl rfl (fun law => law.map_ok fun _ => ⟨rfl, rfl⟩) rfl (.inl rfl)
  have ended : Course s (endExposure h u) := (endExposure_course u h).after flagged
  split
  · split
    · exact (completeGroup_moves _ h).after ended.moves
    · refine Course.moves (Course.after (setHead_course u h ?_ ?_ ?_ ?_ ?_) flagged)
      · rfl
      · rfl
      · exact fun law => law.map_ok fun _ => ⟨rfl, rfl⟩
      · rfl
      · exact .inr rfl
  · have armed : Course s ((endExposure h u).modHead h fun hd =>
        { hd with state := .armed, ctx := { hd.ctx with exposuresDone := hd.ctx.exposuresDone + 1 } }) :=
      Course.after (setHead_course _ h rfl rfl Head.RingLaw.group_ok rfl (.inr rfl)) ended
    split
    · exact armed.moves
    · exact ((enterPacing_course _ h).after armed).moves

/-! ## Teardown, faults, slots -/

theorem teardown_course : Course s (teardown h s) :=
  Course.after (setHead_course _ h rfl rfl (fun _ => Head.no_group_ok) rfl (.inl rfl))
    ((leaveWaiters_course _ h).after (releaseStrobe_course s h))

theorem headFault_course (code : FaultCode) : Course s (headFault h code s) :=
  Course.after
    (QuietMove.course (.ends _ h _ (faultBit h) (.committing rfl rfl Head.RingLaw.group_ok Head.RingLaw.slot_ok) rfl
      (.inr ⟨rfl, rfl⟩)))
    ((offer_course _ h _).after (teardown_course s h))

/-- A slot that is emptied, as the arbiter goes on. -/
theorem emptySlot_moves (a : Arbiter) :
    Moves s { s.modHead h (fun hd => { hd with slot := .empty }) with arb := a } :=
  Move.moves (.slot s h _ a (.keeping rfl rfl id Head.RingLaw.group_ok fun _ c hc => by cases hc) rfl)

theorem removeRequest_moves : Moves s (removeRequest h s) := emptySlot_moves s h _

theorem freePort_moves : Moves s (freePort h s) := emptySlot_moves s h _

theorem readout_moves (a : Arbiter) (l : LinkEnds) : Moves s { s with arb := a, link := l } :=
  (Move.readout s a l).moves

theorem cancelReadout_moves : Moves s (cancelReadout h s) := by
  simp only [cancelReadout]
  repeat' split
  · exact (readout_moves _ _ _).after (freePort_moves s h)
  · exact .refl s
  · exact .refl s

theorem resetSlot_moves : Moves s (resetSlot h s) := by
  simp only [resetSlot]
  split
  · exact .refl s
  · exact removeRequest_moves s h
  · exact cancelReadout_moves s h

theorem stopHead_course : Course s (stopHead h s) := by
  simp only [stopHead]
  repeat' split
  · exact setHead_course s h rfl rfl Head.RingLaw.group_ok rfl (.inl rfl)
  · exact (enterDraining_course _ h).after ((offer_course _ h _).after (teardown_course s h))
  · exact .refl s

theorem abortSlot_moves : Moves s (abortSlot h s).2 := by
  simp only [abortSlot]
  split
  · exact .refl s
  · exact removeRequest_moves s h
  · rename_i g hg
    refine Move.moves (.slot s h _ s.arb (.keeping rfl rfl id Head.RingLaw.group_ok fun law c hc => ?_) rfl)
    obtain rfl := Option.some.inj hc
    exact law.slot_ok g (by rw [hg]; rfl)

theorem abortState_course (fate : SlotFate) : Course s (abortState h fate s) := by
  have committed (st : ExpState) : (s.head h).Goes { s.head h with state := st, ring := (s.head h).ring.commitPending } :=
    .committing rfl rfl Head.RingLaw.group_ok Head.RingLaw.slot_ok
  cases fate with
  | none => exact QuietMove.course (.ends s h _ (doneBit h) (committed .idle) rfl (.inl ⟨rfl, rfl⟩))
  | unqueued => exact QuietMove.course (.ends s h _ (doneBit h) (committed .idle) rfl (.inl ⟨rfl, rfl⟩))
  | readoutContinues => exact QuietMove.course (.head s h _ (committed .draining) rfl (.inr (by simp)))

theorem abortHead_moves : Moves s (abortHead h s) := by
  have torn : Moves s (abortState h (abortSlot h (teardown h s)).1
      (offer h (.abort (s.head h).discarded (abortSlot h (teardown h s)).1) (abortSlot h (teardown h s)).2)) :=
    ((abortState_course _ h _).after (offer_course _ h _)).moves.after
      ((abortSlot_moves _ h).after (teardown_course s h).moves)
  simp only [abortHead]
  split
  · exact .refl s
  · exact .refl s
  · exact .refl s
  all_goals exact torn

/-! ## Readout -/

theorem tryGrant_moves : Moves s (tryGrant s) := by
  simp only [tryGrant, grantTo]
  repeat' split
  · rename_i h rest _ _ g hg
    refine (readout_moves _ _ _).after (Move.moves (.slot s h _ _ (.keeping rfl rfl id Head.RingLaw.group_ok ?_) rfl))
    intro law c hc
    obtain rfl := Option.some.inj hc
    exact law.slot_ok g (by rw [hg]; rfl)
  all_goals exact .refl s

theorem choices_moves (n : Nat) : Moves s { s with choices := n } :=
  (Move.registers s s.table s.buffer s.tb s.port n id).moves

theorem grantOrNot_moves : Moves s (grantOrNot s) := by
  obtain ⟨-, e⟩ | ⟨-, e | e⟩ := grantOrNot_cases s
  · rw [e]
  · rw [e]; exact choices_moves s _
  · rw [e]; exact (tryGrant_moves _).after (choices_moves s _)

theorem leaveBlocked_course : Course s (leaveBlocked h s) := by
  simp only [leaveBlocked]
  repeat' split
  · exact acceptStart_course s h _ _
  · exact setHead_course s h rfl rfl Head.RingLaw.group_ok rfl (.inr rfl)
  · exact enterPacing_course s h

theorem slotEmptied_moves : Moves s (slotEmptied h s) := by
  simp only [slotEmptied]
  split
  · rename_i hstate
    refine Course.moves (QuietMove.course (.ends s h _ (doneBit h) ⟨rfl, fun law => ?_, id⟩ rfl (.inl ⟨rfl, rfl⟩)))
    obtain ⟨hring, hpending, hgroup, hslot⟩ := law
    refine ⟨hring, fun hp => ?_, hgroup, hslot⟩
    have hrunning := hpending hp
    rw [hstate] at hrunning
    cases hrunning
  · exact (leaveBlocked_course s h).moves
  · exact (completeGroup_moves _ h).after (endExposure_course s h).moves
  all_goals exact .refl s

theorem notifyEmptied_moves : Moves s (notifyEmptied h s) := by
  simp only [notifyEmptied]
  split
  · exact (slotEmptied_moves _ h).after (grantOrNot_moves s)
  · exact slotEmptied_moves s h

theorem captureReadout_moves (status : Status) (level : Word) : Moves s (captureReadout h status level s) := by
  simp only [captureReadout]
  split
  · exact (notifyEmptied_moves _ h).after ((freePort_moves _ h).after (offer_course s h _).moves)
  all_goals exact (notifyEmptied_moves _ h).after (freePort_moves s h)

/-- The arbiter takes another value and a cause is raised. -/
theorem arbCause_moves (a : Arbiter) (bit : Word) : Moves s ({ s with arb := a }.raise bit) :=
  (raise_course _ bit).moves.after (readout_moves s a s.link)

theorem takeComplete_moves (tag : Byte) (status : Status) (level : Word) :
    Moves s (takeComplete tag status level s) := by
  simp only [takeComplete]
  repeat' split
  · exact arbCause_moves s _ _
  · exact captureReadout_moves s _ _ _
  · exact captureReadout_moves s _ _ _
  · exact (headFault_course _ _ _).moves.after (freePort_moves s _)
  · exact arbCause_moves s _ _

theorem receiveFrame_moves (f : RxFrame) : Moves s (receiveFrame f s) := by
  simp only [receiveFrame]
  repeat' split
  · exact .refl s
  · exact takeComplete_moves s _ _ _
  · exact arbCause_moves s _ _

theorem expireReadout_moves : Moves s (expireReadout s) := by
  simp only [expireReadout]
  split
  · exact (headFault_course _ _ _).moves.after ((freePort_moves _ _).after (readout_moves s s.arb _))
  all_goals exact .refl s

theorem writeLinkCfg_moves (on : Bool) : Moves s (writeLinkCfg on s) := by
  have stored : Moves s { s with arb := { s.arb with linkEnable := on } } := readout_moves s _ s.link
  simp only [writeLinkCfg]
  split
  · exact (tryGrant_moves _).after stored
  · exact stored

/-! ## Events -/

theorem receiveAssert_course (src : Source) (time : Stamp) : Course s (receiveAssert src time h s) := by
  simp only [receiveAssert]
  repeat' split
  · exact acceptStart_course s h _ _
  · exact setHead_course s h rfl rfl Head.RingLaw.group_ok rfl (.inl rfl)
  all_goals first
    | exact dropTrigger_course s h _ _ _
    | exact .refl s

theorem shortStart_course (n : LineIx) : Course s (shortStart h n s) :=
  (dropTrigger_course _ h _ _ _).after
    (Course.after (setHead_course _ h rfl rfl Head.RingLaw.group_ok rfl (.inr rfl)) (leaveWaiters_course s h))

theorem receiveRelease_moves (n : LineIx) : Moves s (receiveRelease n h s) := by
  simp only [receiveRelease]
  repeat' split
  · exact (shortStart_course s h n).moves
  · exact (shortStart_course s h n).moves
  · exact endCondition_moves s h false
  all_goals exact .refl s

theorem deliverAssert_moves (src : Source) (time : Stamp) (heads : List HeadIx) :
    Moves s (deliverAssert src time heads s) := by
  obtain ⟨order, n, -, e⟩ := deliverAssert_spec s src time heads
  rw [e]
  clear e
  refine Moves.after ?_ (choices_moves s n)
  generalize { s with choices := n } = u
  induction order generalizing u with
  | nil => exact .refl u
  | cons k rest ih => exact Moves.after (ih _) (receiveAssert_course u k src time).moves

theorem inTurn_moves {act : HeadIx → State → State} (hact : ∀ s h, Moves s (act h s)) (l : List HeadIx) :
    Moves s (inTurn act l s) :=
  inTurn_induction (P := Moves s) (fun h t m => (hact t h).after m) (fun t m => (grantOrNot_moves t).after m) l s (.refl s)

theorem deliverRelease_moves (n : LineIx) : Moves s (deliverRelease n s) := by
  obtain ⟨order, k, -, e⟩ := deliverRelease_spec s n
  rw [e]
  exact (inTurn_moves _ (fun t h => receiveRelease_moves t h n) order).after (choices_moves s k)

/-! ## Expiries and strobe channels -/

theorem expireDelay_course : Course s (expireDelay h s) := by
  simp only [expireDelay]
  split
  · exact (attemptStart_course _ h).after (setHead_course s h rfl rfl Head.RingLaw.group_ok rfl (.inl rfl))
  · exact .refl s

theorem expireSpacing_course : Course s (expireSpacing h s) := by
  have expired : Course s (s.modHead h fun hd => { hd with ctx := { hd.ctx with spacing := .expired 0 s.now } }) :=
    setHead_course s h rfl rfl Head.RingLaw.group_ok rfl (.inl rfl)
  simp only [expireSpacing]
  repeat' split
  · exact (pacedAttempt_course _ h _ _).after expired
  · exact expired
  · exact .refl s

theorem expireStrobeWait_course : Course s (expireStrobeWait h s) := by
  have left : Course s ((leaveWaiters h s).modHead h fun hd => { hd with
      state := .armed
      ctx := { hd.ctx with pendingStart := none, startLine := none }
      timers := HeadTimers.stopped }) :=
    Course.after (setHead_course _ h rfl rfl Head.RingLaw.group_ok rfl (.inr rfl)) (leaveWaiters_course s h)
  simp only [expireStrobeWait]
  repeat' split
  · exact .refl s
  · exact (dropTrigger_course _ h _ _ _).after left
  · exact (dropTrigger_course _ h _ _ _).after left
  · exact Course.after (setHead_course _ h rfl rfl Head.RingLaw.group_ok rfl (.inr rfl))
      ((dropTrigger_course _ h _ _ _).after left)
  · exact (enterPacing_course _ h).after ((dropTrigger_course _ h _ _ _).after left)
  · exact .refl s

theorem darken_course : Course s (s.modHead h Head.darken) :=
  setHead_course s h rfl rfl (fun law => law.map_ok fun _ => ⟨rfl, rfl⟩) rfl (.inl rfl)

theorem startWaiters_course (l : List HeadIx) : Course s (l.foldl (fun s w => startExposure w false s) s) := by
  induction l generalizing s with
  | nil => exact .refl s
  | cons w l ih => exact Course.after (ih _) (startExposure_course s w false)

theorem disableStrobe_course (n : ChanIx) : Course s (disableStrobe n s) := by
  simp only [disableStrobe]
  split
  · exact (startWaiters_course _ _).after ((darken_course _ _).after (setChan_course s n _))
  · exact (startWaiters_course _ _).after (setChan_course s n _)

theorem setStrobe_course (n : ChanIx) (enable low : Bool) : Course s (setStrobe n enable low s) := by
  simp only [setStrobe]
  split
  · exact (setChan_course _ n _).after (setChan_course s n _)
  · exact (disableStrobe_course _ n).after (setChan_course s n _)
  all_goals exact setChan_course s n _

theorem writeStrobeCfg_course (w : Word) : Course s (writeStrobeCfg w s) := by
  have sets (l : List ChanIx) (u : State) :
      Course u (l.foldl (fun s n => setStrobe n (w.getLsbD n.val) (w.getLsbD (8 + n.val)) s) u) := by
    induction l generalizing u with
    | nil => exact .refl u
    | cons n l ih => exact Course.after (ih _) (setStrobe_course u n _ _)
  exact sets allChans s

end Sys2Proof.Machine
end

section
/-! PROOFS. What every run of moves keeps: the record queue grows at its tail, causes once raised stand, a head enters IDLE
with DONEn and FAULT with FAULTn, and the laws of rings, lines and clock stand. -/

namespace Sys2Proof.Machine

variable {s t u : State}

/-! ## The record queue (R130, R131) -/

theorem Body.two_le_words (gap : Option Word) (b : Body) : 1 ≤ (b.words gap).length := by
  cases b <;> simp [Body.words]

theorem Record.two_le_len (r : Record) : 2 ≤ r.len := by
  cases r with
  | mark tag => exact Nat.le_refl 2
  | ofHead h restart seq gap body => simp [Record.len, Record.words]

namespace RecordQueue

variable {q : RecordQueue} {r : Record}

theorem occupancy_append (h : q.WF) :
    { q with records := q.records ++ [r] }.occupancy = q.occupancy + r.len := by
  have hpos : q.readPos ≤ (q.records.map Record.len).sum := by
    obtain ⟨hpos, -⟩ := h
    cases e : q.records with
    | nil => rw [e] at hpos; exact Nat.le_of_lt_succ hpos
    | cons a l => rw [e] at hpos; simp only [List.map_cons, List.sum_cons]; simp only at hpos; omega
  simp only [occupancy, List.map_append, List.sum_append, List.map_cons, List.map_nil, List.sum_singleton]
  omega

/-- A record that fits keeps the queue's form. -/
theorem wf_append (h : q.WF) (fits : r.len ≤ q.free) : { q with records := q.records ++ [r] }.WF := by
  have hfits : q.occupancy + r.len ≤ Config.queueWords := by
    have := h.2.1
    simp only [free] at fits
    omega
  refine ⟨?_, (occupancy_append h).symm ▸ hfits, h.2.2⟩
  have hpos := h.1
  have hlen := r.two_le_len
  cases e : q.records with
  | nil => rw [e] at hpos; simp only [List.nil_append]; simp only at hpos; omega
  | cons a l => rw [e] at hpos; exact hpos

end RecordQueue

/-- The record queue of t is that of s with whole records appended, each of which fitted. -/
def QueueGrows (s t : State) : Prop :=
  (∃ new, t.queue = { s.queue with records := s.queue.records ++ new }) ∧ (s.queue.WF → t.queue.WF)

namespace QueueGrows

theorem of_eq (e : t.queue = s.queue) : QueueGrows s t := ⟨⟨[], by simp [e]⟩, fun h => e ▸ h⟩

theorem trans (a : QueueGrows s t) (b : QueueGrows t u) : QueueGrows s u := by
  obtain ⟨⟨new, ha⟩, wa⟩ := a
  obtain ⟨⟨new', hb⟩, wb⟩ := b
  exact ⟨⟨new ++ new', by rw [hb, ha, List.append_assoc]⟩, fun h => wb (wa h)⟩

theorem append {r : Record} (e : t.queue = { s.queue with records := s.queue.records ++ [r] })
    (fits : r.len ≤ s.queue.free) : QueueGrows s t :=
  ⟨⟨[r], e⟩, fun h => e ▸ RecordQueue.wf_append h fits⟩

theorem of_offer (s : State) (h : HeadIx) (body : Body) : QueueGrows s (offer h body s) := by
  simp only [offer]
  split
  · exact append rfl ‹_›
  · exact of_eq rfl

theorem of_move (m : Move s t) : QueueGrows s t := by
  cases m with
  | quiet q =>
    cases q with
    | record h body => exact of_offer s h body
    | head | ends | cause | chans => exact of_eq rfl
  | mark tag fits => exact append rfl fits
  | slot | heads | irqSetup | readout | inputs | registers => exact of_eq rfl

end QueueGrows

theorem Moves.queueGrows (m : Moves s t) : QueueGrows s t :=
  m.induction (R := QueueGrows) (fun _ => .of_eq rfl) QueueGrows.trans QueueGrows.of_move

/-! ## Causes (R159, R164, R169) -/

/-- A cause that stands in s stands in t; a head is in IDLE, or in FAULT, only where it was there or the cause stands. -/
structure Signalled (s t : State) : Prop where
  stands : ∀ i, s.irq.flags.getLsbD i = true → t.irq.flags.getLsbD i = true
  done : ∀ h, (t.head h).state = .idle → (s.head h).state = .idle ∨ t.irq.flags.getLsbD (8 + h.val) = true
  fault : ∀ h, (t.head h).state = .fault → (s.head h).state = .fault ∨ t.irq.flags.getLsbD (12 + h.val) = true

theorem raise_stands (s : State) (bit : Word) (i : Nat) (h : s.irq.flags.getLsbD i = true) :
    (s.raise bit).irq.flags.getLsbD i = true := by
  simp [State.raise, Interrupts.raise, h]

theorem raise_doneBit (s : State) (h : HeadIx) : (s.raise (doneBit h)).irq.flags.getLsbD (8 + h.val) = true := by
  have place : ∀ h : HeadIx, (doneBit h &&& stickyMask).getLsbD (8 + h.val) = true := by decide
  rw [raise_irq, Interrupts.raise, BitVec.getLsbD_or, place, Bool.or_true]

theorem raise_faultBit (s : State) (h : HeadIx) : (s.raise (faultBit h)).irq.flags.getLsbD (12 + h.val) = true := by
  have place : ∀ h : HeadIx, (faultBit h &&& stickyMask).getLsbD (12 + h.val) = true := by decide
  rw [raise_irq, Interrupts.raise, BitVec.getLsbD_or, place, Bool.or_true]

namespace Signalled

theorem of_states (stands : ∀ i, s.irq.flags.getLsbD i = true → t.irq.flags.getLsbD i = true)
    (e : ∀ h, (t.head h).state = (s.head h).state) : Signalled s t :=
  ⟨stands, fun h ht => .inl (e h ▸ ht), fun h ht => .inl (e h ▸ ht)⟩

theorem trans (a : Signalled s t) (b : Signalled t u) : Signalled s u where
  stands i h := b.stands i (a.stands i h)
  done h hu := (b.done h hu).elim (fun ht => (a.done h ht).imp_right (b.stands _)) .inr
  fault h hu := (b.fault h hu).elim (fun ht => (a.fault h ht).imp_right (b.stands _)) .inr

/-- One head goes on: if into IDLE or FAULT, with its cause. -/
theorem of_setHead {h : HeadIx} {y : Head} (heads : ∀ k, t.head k = (s.setHead h y).head k)
    (stands : ∀ i, s.irq.flags.getLsbD i = true → t.irq.flags.getLsbD i = true)
    (done : y.state = .idle → (s.head h).state = .idle ∨ t.irq.flags.getLsbD (8 + h.val) = true)
    (fault : y.state = .fault → (s.head h).state = .fault ∨ t.irq.flags.getLsbD (12 + h.val) = true) :
    Signalled s t := by
  refine ⟨stands, fun k hk => ?_, fun k hk => ?_⟩ <;> rw [heads, head_setHead] at hk <;> split at hk
  · subst_vars; exact done hk
  · exact .inl hk
  · subst_vars; exact fault hk
  · exact .inl hk

theorem offer_state (s : State) (h : HeadIx) (body : Body) (k : HeadIx) :
    ((offer h body s).head k).state = (s.head k).state := by
  by_cases e : k = h
  · obtain ⟨lost, restart, hoffer⟩ := offer_head_frame s h body
    rw [e, hoffer]
  · rw [offer_head_ne s h e]

theorem of_offer (s : State) (h : HeadIx) (body : Body) : Signalled s (offer h body s) := by
  refine of_states (fun i hi => ?_) (offer_state s h body)
  simp only [offer]
  split
  · exact hi
  · exact raise_stands _ _ i hi

theorem of_quietMove (m : QuietMove s t) : Signalled s t := by
  cases m with
  | head h y goes slot stays =>
    refine of_setHead (fun _ => rfl) (fun _ hi => hi) (fun e => ?_) (fun e => ?_)
    · exact .inl (stays.elim (fun e' => e' ▸ e) fun ⟨hn, _⟩ => absurd e hn)
    · exact .inl (stays.elim (fun e' => e' ▸ e) fun ⟨_, hn⟩ => absurd e hn)
  | ends h y bit goes slot into =>
    obtain ⟨hstate, rfl⟩ | ⟨hstate, rfl⟩ := into
    · refine of_setHead (fun _ => rfl) (raise_stands _ _) (fun _ => .inr (raise_doneBit _ h)) fun e => ?_
      rw [hstate] at e; cases e
    · refine of_setHead (fun _ => rfl) (raise_stands _ _) (fun e => ?_) fun _ => .inr (raise_faultBit _ h)
      rw [hstate] at e; cases e
  | cause bit => exact of_states (raise_stands s bit) fun _ => rfl
  | chans => exact of_states (fun _ hi => hi) fun _ => rfl
  | record h body => exact of_offer s h body

theorem of_move (m : Move s t) : Signalled s t := by
  cases m with
  | quiet q => exact of_quietMove q
  | slot h y a goes stays =>
    exact of_setHead (fun _ => rfl) (fun _ hi => hi) (fun e => .inl (stays ▸ e)) (fun e => .inl (stays ▸ e))
  | heads hs goes => exact of_states (fun _ hi => hi) fun h => (goes h).2
  | mark | irqSetup | readout | inputs | registers => exact of_states (fun _ hi => hi) fun _ => rfl

end Signalled

theorem Moves.signalled (m : Moves s t) : Signalled s t :=
  m.induction (R := Signalled) (fun _ => .of_states (fun _ hi => hi) fun _ => rfl) Signalled.trans Signalled.of_move

/-! ## Rings, lines and clock -/

/-- The ring law at every head, and no pending APPLY at a head that is not enabled (R36, R93). -/
abbrev State.RingsKept (s : State) : Prop :=
  s.RingLaw ∧ ∀ h, (s.head h).enabled = false → (s.head h).ring.applyPending = false

theorem State.RingsKept.of_goes (goes : ∀ h, (s.head h).Goes (t.head h)) (k : s.RingsKept) : t.RingsKept :=
  ⟨fun h => (goes h).ring (k.1 h), fun h e => (goes h).applyPending (k.2 h ((goes h).enabled ▸ e))⟩

theorem goes_setHead {h : HeadIx} {y : Head} (goes : (s.head h).Goes y) (k : HeadIx) :
    (s.head k).Goes ((s.setHead h y).head k) := by
  rw [head_setHead]
  split
  · subst_vars; exact goes
  · exact .refl _

theorem goes_offer (s : State) (h : HeadIx) (body : Body) (k : HeadIx) :
    (s.head k).Goes ((offer h body s).head k) := by
  by_cases e : k = h
  · obtain ⟨lost, restart, hoffer⟩ := offer_head_frame s h body
    rw [e, hoffer]
    exact ⟨rfl, id, id⟩
  · rw [offer_head_ne s h e]
    exact .refl _

theorem QuietMove.goes (m : QuietMove s t) (k : HeadIx) : (s.head k).Goes (t.head k) := by
  cases m with
  | head h y goes => exact goes_setHead goes k
  | ends h y bit goes => exact goes_setHead goes k
  | cause | chans => exact .refl _
  | record h body => exact goes_offer s h body k

theorem Move.goes (m : Move s t) (k : HeadIx) : (s.head k).Goes (t.head k) := by
  cases m with
  | quiet q => exact q.goes k
  | slot h y a goes => exact goes_setHead goes k
  | heads hs goes => exact (goes k).1
  | mark | irqSetup | readout | inputs | registers => exact .refl _

theorem Moves.ringsKept (m : Moves s t) : s.RingsKept → t.RingsKept :=
  m.induction (R := fun s t => s.RingsKept → t.RingsKept) (fun _ => id) (fun a b k => b (a k))
    fun m => .of_goes m.goes

theorem Move.lineLaw (m : Move s t) (law : s.LineLaw) : t.LineLaw := by
  cases m with
  | quiet q =>
    cases q with
    | record h body =>
      obtain ⟨_, _, _, e⟩ := offer_frame s h body
      rw [e]; exact law
    | head | ends | cause | chans => exact law
  | inputs tin ls rs follows => exact follows law
  | slot | heads | mark | irqSetup | readout | registers => exact law

theorem Moves.lineLaw (m : Moves s t) : s.LineLaw → t.LineLaw :=
  m.induction (R := fun s t => s.LineLaw → t.LineLaw) (fun _ => id) (fun a b k => b (a k)) Move.lineLaw

/-- A raised cause stands at a sticky cause's place (R169). -/
theorem Interrupts.raise_places (i : Interrupts) (bit : Word) (h : i.flags &&& ~~~stickyMask = 0) :
    (i.raise bit).flags &&& ~~~stickyMask = 0 := by
  have place : bit &&& stickyMask &&& ~~~stickyMask = 0 := by rw [BitVec.and_assoc, stickyMask]; simp
  have distrib (x y m : Word) : (x ||| y) &&& m = (x &&& m) ||| (y &&& m) := by
    ext i hi; simp only [BitVec.getElem_and, BitVec.getElem_or, Bool.and_or_distrib_right]
  rw [raise, distrib, h, place]; rfl

theorem State.ClockLaw.raise (law : s.ClockLaw) (bit : Word) : (s.raise bit).ClockLaw := by
  obtain ⟨htick, hfresh, hflags, henables⟩ := law
  exact ⟨htick, hfresh, s.irq.raise_places bit hflags, henables⟩

theorem State.ClockLaw.offer (law : s.ClockLaw) (h : HeadIx) (body : Body) :
    (Sys2Proof.Machine.offer h body s).ClockLaw := by
  simp only [Sys2Proof.Machine.offer]
  split
  · exact law
  · exact State.ClockLaw.raise (s := s.setHead h _) law lostBit

theorem Move.clockLaw (m : Move s t) (law : s.ClockLaw) : t.ClockLaw := by
  cases m with
  | quiet q =>
    cases q with
    | cause bit => exact law.raise bit
    | ends h y bit => exact State.ClockLaw.raise (s := s.setHead h y) law bit
    | record h body => exact law.offer h body
    | head | chans => exact law
  | irqSetup w high places =>
    obtain ⟨htick, hfresh, hflags, henables⟩ := law
    exact ⟨htick, hfresh, hflags, places.elim (fun e => e ▸ henables) id⟩
  | registers table buffer tb port choices clock =>
    obtain ⟨htick, hfresh, hflags, henables⟩ := law
    obtain ⟨htick', hfresh'⟩ := clock ⟨htick, hfresh⟩
    exact ⟨htick', hfresh', hflags, henables⟩
  | slot | heads | mark | readout | inputs => exact law

theorem Moves.clockLaw (m : Moves s t) : s.ClockLaw → t.ClockLaw :=
  m.induction (R := fun s t => s.ClockLaw → t.ClockLaw) (fun _ => id) (fun a b k => b (a k)) Move.clockLaw

end Sys2Proof.Machine
end

section
/-! PROOFS. Which rows are runs of moves: all but the resets, the enables, CLEAR, APPLY and the rows that take from the
record queue or clear flags; and what a REGISTER_WRITE or UNLISTED_COMMAND word comes to. -/

namespace Sys2Proof

/-- A row whose act is no run of moves: it resets, it enables or disables a head, it acts on a FAULT or on an APPLY, it
takes from the record queue or sets its threshold, it clears flags, or it is a word whose register says what it does. -/
def Instr.standsApart : Instr → Bool
  | .powerOnReset | .registerWrite _ | .clear _ | .headReset _ | .apply _ | .discard _ | .softReset _
  | .unlistedCommand _ | .headEnable _ | .headDisable _ | .queueRead | .qThreshWrite _ | .irqFlagsClear _ => true
  | _ => false

end Sys2Proof

namespace Sys2Proof.Machine

variable (s : State)

/-! ## The host port -/

theorem registers_moves (table : Vector Entry 32) (buffer : Vector Word 16) (port : HostPort) :
    Moves s { s with table := table, buffer := buffer, port := port } :=
  Move.moves (.registers s table buffer s.tb port s.choices id)

theorem port_moves (p : HostPort) : Moves s { s with port := p } := registers_moves s s.table s.buffer p

theorem afterWrite_moves (a : Addr) : Moves s (afterWrite a s) := port_moves s _

theorem afterRead_moves (a : Addr) (w : Word) : Moves s (afterRead a w s) := port_moves s _

theorem takeWith_moves {act : State → Verdict × State} (m : Moves s (act s).2) (upper code : Byte) :
    Moves s (takeWith act upper code s) := Moves.after (port_moves (act s).2 _) m

theorem commandWord_moves {act : State → Verdict × State} (m : Moves s (act s).2) (c : CmdName) (upper : Byte) :
    Moves s (commandWord c act upper s) := (afterWrite_moves _ _).after (takeWith_moves s m _ _)

theorem onHead_moves {act : HeadIx → State → Verdict × State} (m : ∀ h, Moves s (act h s).2) :
    Moves s (onHead act s).2 := by
  simp only [onHead]
  split
  · exact m _
  · exact .refl s

/-! ## Heads and rings -/

theorem cmdStart_course : Course s (cmdStart s).2 := by
  simp only [cmdStart]
  repeat' split
  · exact .refl s
  · exact .refl s
  · exact .refl s
  · exact setHead_course s _ rfl rfl (fun _ => Head.no_group_ok) rfl (.inr rfl)
  · exact .refl s

theorem clearDrops_course (h : HeadIx) : Course s (clearDrops h s) :=
  setHead_course s h rfl rfl Head.RingLaw.group_ok rfl (.inl rfl)

/-- A staged write withdraws a pending APPLY (R91). -/
theorem stage_course (h : HeadIx) (pos : Fin 33) (w : Word) :
    Course s (s.modHead h fun hd => { hd with ring := hd.ring.stage pos w }) := by
  refine QuietMove.course (.head s h _ ⟨rfl, fun law => ?_, fun _ => rfl⟩ rfl (.inl rfl))
  obtain ⟨⟨hlive, hpointer, -⟩, -, hgroup, hslot⟩ := law
  exact ⟨⟨hlive, hpointer, fun e => Bool.noConfusion e⟩, fun e => Bool.noConfusion e, hgroup, hslot⟩

theorem advancePos_moves : Moves s (advancePos s) := port_moves s _

theorem ringWrite_moves (w : Word) : Moves s (ringWrite w s) := by
  simp only [ringWrite]
  split
  · exact advancePos_moves s
  · exact (advancePos_moves _).after (stage_course s _ _ w).moves

/-! ## Lines and generators -/

theorem pin_set (n k : LineIx) (high : Bool) :
    { s with tin := s.tin.set n.val high n.isLt }.pin k = if k = n then high else s.pin k := by
  simp only [State.pin, Vector.getElem_set, Fin.ext_iff, eq_comm]

/-- A line takes a value that follows its pin. -/
theorem setLine_moves {n : LineIx} {l : Line} (follows : s.LineLaw → l.Law (s.pin n)) : Moves s (s.setLine n l) :=
  Move.moves (.inputs s s.tin _ s.rates fun law k => by
    show ((s.setLine n l).line k).Law (s.pin k)
    rw [line_setLine]
    split
    · subst_vars; exact follows law
    · exact law k)

/-- A pin is sampled and its line takes a value that follows it. -/
theorem sampled_moves {n : LineIx} {l : Line} {high : Bool} (follows : s.LineLaw → l.Law high) :
    Moves s ({ s with tin := s.tin.set n.val high n.isLt }.setLine n l) :=
  Move.moves (.inputs s _ _ s.rates fun law k => by
    show (({ s with tin := s.tin.set n.val high n.isLt }.setLine n l).line k).Law
      ({ s with tin := s.tin.set n.val high n.isLt }.pin k)
    rw [line_setLine, pin_set]
    by_cases e : k = n
    · rw [if_pos e, if_pos e]; exact follows law
    · rw [if_neg e, if_neg e]; exact law k)

theorem law_settled (low : Bool) (f : Byte) (high : Bool) : Line.Law high ⟨low, f, some ⟨high, none⟩⟩ := by
  intro q hq
  obtain rfl := Option.some.inj hq
  exact ⟨fun _ => rfl, fun c hc => by cases hc⟩

theorem law_disabled (low : Bool) (f : Byte) (high : Bool) : Line.Law high ⟨low, f, none⟩ := fun q hq => by cases hq

/-- A line that becomes settled at a level delivers its assert or its release (R21). -/
theorem deliver_moves (n : LineIx) (active : Bool) (time : Stamp) :
    Moves s (if active then deliverAssert (.line n) time allHeads s else deliverRelease n s) := by
  split
  · exact deliverAssert_moves s _ _ _
  · exact deliverRelease_moves s n

theorem sampleLine_moves (n : LineIx) (high : Bool) : Moves s (sampleLine n high s) := by
  simp only [sampleLine]
  split
  · exact .refl s
  split
  · rename_i hq
    have disabled : s.line n = ⟨(s.line n).activeLow, (s.line n).filter, none⟩ := by rw [← hq]
    have m := sampled_moves s (n := n) (l := s.line n) (high := high) fun _ => disabled ▸ law_disabled _ _ _
    rwa [show s.line n = { s with tin := s.tin.set n.val high n.isLt }.line n from rfl, setLine_line] at m
  · rename_i hpin q hq
    split
    · rename_i heq
      exact sampled_moves s fun _ => heq ▸ law_settled _ _ _
    split
    · exact (deliver_moves _ n _ _).after (sampled_moves s fun _ => law_settled _ _ _)
    · rename_i hne hfilter
      refine sampled_moves s fun law => ?_
      intro q' hq'
      obtain rfl := Option.some.inj hq'
      refine ⟨fun e => ?_, fun c hc => ?_⟩
      · cases e
      · obtain rfl := Option.some.inj hc
        exact ⟨rfl, hne⟩

theorem expireFilter_moves (n : LineIx) : Moves s (expireFilter n s) := by
  simp only [expireFilter]
  repeat' split
  · rename_i q hq _ c hc _
    refine (deliver_moves _ n _ _).after (setLine_moves s fun law => ?_)
    rw [← ((law n q hq).2 c hc).1]
    exact law_settled _ _ _
  all_goals exact .refl s

theorem releaseIfActive_moves (n : LineIx) (l : Line) : Moves s (releaseIfActive n l s) := by
  simp only [releaseIfActive]
  repeat' split
  · exact deliverRelease_moves s n
  all_goals exact .refl s

theorem writeLineCfg_moves (n : LineIx) (enable low : Bool) (f : Byte) : Moves s (writeLineCfg n enable low f s) := by
  simp only [writeLineCfg]
  split
  · exact setLine_moves s fun _ => law_disabled _ _ _
  · exact setLine_moves s fun _ => law_settled _ _ _
  · exact (releaseIfActive_moves _ n _).after (setLine_moves s fun _ => law_disabled _ _ _)
  · rename_i q hq
    split
    · refine setLine_moves s fun law q' hq' => ?_
      obtain rfl := Option.some.inj hq'
      exact law n q hq
    · exact (releaseIfActive_moves _ n _).after (setLine_moves s fun _ => law_settled _ _ _)

theorem setRate_moves (g : RateIx) (r : RateGen) : Moves s (s.setRate g r) :=
  Move.moves (.inputs s s.tin s.lines _ id)

theorem expirePeriod_moves (g : RateIx) : Moves s (expirePeriod g s) := by
  simp only [expirePeriod]
  repeat' split
  · exact setRate_moves s g _
  · exact (deliverAssert_moves _ _ _ _).after (setRate_moves s g _)
  all_goals exact .refl s

/-! ## Timebase -/

theorem timebase_moves (tb : Timebase) (n : Nat) (clock : s.tb.Law → tb.Law) :
    Moves s { s with tb := tb, choices := n } :=
  Move.moves (.registers s s.table s.buffer tb s.port n clock)

theorem captureHigh_moves : Moves s (captureHigh s) := timebase_moves s _ s.choices id

theorem writeDivider_moves (w : Word) : Moves s (writeDivider w s) := by
  obtain ⟨e, -⟩ | ⟨hfresh, -, e | e⟩ := writeDivider_cases s w <;> rw [e]
  · exact timebase_moves s _ s.choices id
  · exact timebase_moves s _ _ fun ⟨htick, _⟩ => ⟨htick, fun e => Bool.noConfusion e⟩
  · refine timebase_moves s _ _ fun ⟨_, hzero⟩ => ⟨?_, fun _ => hzero hfresh⟩
    show s.tb.refclks ≤ _
    rw [hzero hfresh]
    exact Nat.zero_le _

theorem Head.tick_goes (hd : Head) : hd.Goes hd.tick := ⟨rfl, id, id⟩

theorem Line.tick_law {pin : Bool} {l : Line} (law : l.Law pin) : l.tick.Law pin := by
  intro q hq
  obtain ⟨q', hq', rfl⟩ := Option.mem_map.1 hq
  obtain ⟨hnone, hsome⟩ := law q' hq'
  refine ⟨fun e => hnone (Option.map_eq_none_iff.1 e), fun c hc => ?_⟩
  obtain ⟨c', hc', rfl⟩ := Option.mem_map.1 hc
  exact hsome c' hc'

theorem tickEnd_moves : Moves s (tickEnd s) := by
  have heads : Moves s { s with heads := mapAll Head.tick s.heads } :=
    Move.moves (.heads s _ fun h => by rw [mapAll_getElem]; exact ⟨Head.tick_goes _, rfl⟩)
  refine Moves.after ?_ heads
  refine Moves.after (readout_moves _ _ s.link) (Moves.after
    (timebase_moves _ _ s.choices fun _ => ⟨Nat.zero_le _, fun _ => rfl⟩) (Move.moves (.inputs _ s.tin _ _ fun law n => ?_)))
  show ((tickEnd s).line n).Law (s.pin n)
  rw [line_tickEnd]
  exact Line.tick_law (law n)

/-! ## The rows -/

theorem cmdMark_moves : Moves s (cmdMark s).2 := by
  simp only [cmdMark]
  split
  · exact Move.moves (.mark s _ ‹_›)
  · exact .refl s

theorem cmdProgramWrite_moves : Moves s (cmdProgramWrite s).2 := by
  simp only [cmdProgramWrite]
  split
  · exact registers_moves s _ s.buffer s.port
  · exact .refl s

theorem cmdProgramRead_moves : Moves s (cmdProgramRead s).2 := by
  simp only [cmdProgramRead]
  split
  · exact registers_moves s s.table _ s.port
  · exact .refl s

theorem cmdProgramClear_moves : Moves s (cmdProgramClear s).2 := by
  simp only [cmdProgramClear]
  split
  · exact registers_moves s _ s.buffer s.port
  · exact .refl s

theorem cmdTbLoad_moves : Moves s (cmdTbLoad s).2 := timebase_moves s _ s.choices id

theorem irqEn_moves (w : Word) : Moves s (writeIrqEn w s) :=
  Move.moves (.irqSetup s _ s.irq.activeHigh (.inr (by rw [BitVec.and_assoc, causeMask]; simp)))

theorem irqCfg_moves (high : Bool) : Moves s (writeIrqCfg high s) :=
  Move.moves (.irqSetup s s.irq.enables high (.inl rfl))

theorem execDeselect_moves (cut : Bool) :
    Moves s { (if cutsTbLo s cut then captureHigh s else s) with
      port := { (if cutsTbLo s cut then captureHigh s else s).port with transaction := none, sdo := none } } := by
  split
  · exact (port_moves _ _).after (captureHigh_moves s)
  · exact port_moves s _

variable {s} in
theorem moves_if {c : Prop} [Decidable c] {u : State} (m : Moves s u) : Moves s (if c then u else s) := by
  split
  · exact m
  · exact .refl s

variable {s} in
/-- The answer of a row is the state that its definition gives. -/
theorem Moves.of_next {t u : State} (m : Moves s u) (e : (.next u : Host.Outcome State Fault Refusal) = .next t) :
    Moves s t := Host.Outcome.next.inj e ▸ m

/-- Every other row is a run of moves. -/
theorem exec_moves {c : Instr} (hc : c.standsApart = false) {s t : State} (e : exec c s = .next t) :
    Moves s t := by
  cases c with
  | powerOnReset | registerWrite | clear | headReset | apply | discard | softReset | unlistedCommand | headEnable
  | headDisable | queueRead | qThreshWrite | irqFlagsClear => cases hc
  | addressByte byte => exact (port_moves s _).of_next e
  | deselect cut => exact (execDeselect_moves s cut).of_next e
  | start u => exact (commandWord_moves s (cmdStart_course s).moves _ u).of_next e
  | stop u => exact (commandWord_moves s (onHead_moves s fun h => (stopHead_course s h).moves) _ u).of_next e
  | abort u => exact (commandWord_moves s (onHead_moves s fun h => abortHead_moves s h) _ u).of_next e
  | softTrigger u => exact (commandWord_moves s (deliverAssert_moves s _ _ _) _ u).of_next e
  | mark u => exact (commandWord_moves s (cmdMark_moves s) _ u).of_next e
  | programWrite u => exact (commandWord_moves s (cmdProgramWrite_moves s) _ u).of_next e
  | programRead u => exact (commandWord_moves s (cmdProgramRead_moves s) _ u).of_next e
  | programClear u => exact (commandWord_moves s (cmdProgramClear_moves s) _ u).of_next e
  | tbLoad u => exact (commandWord_moves s (cmdTbLoad_moves s) _ u).of_next e
  | ringDataWrite w => exact ((afterWrite_moves _ _).after (ringWrite_moves s w)).of_next e
  | ringDataRead => exact ((afterRead_moves _ _ _).after (advancePos_moves s)).of_next e
  | headDropClear h => exact ((afterWrite_moves _ _).after (clearDrops_course s h).moves).of_next e
  | lineEnable n low f => exact ((afterWrite_moves _ _).after (writeLineCfg_moves s n true low f)).of_next e
  | lineDisable n low f => exact ((afterWrite_moves _ _).after (writeLineCfg_moves s n false low f)).of_next e
  | lineReconfigure n low f => exact ((afterWrite_moves _ _).after (writeLineCfg_moves s n _ low f)).of_next e
  | lineLevelChange n high => exact (sampleLine_moves s n high).of_next e
  | filterExpiry n => exact (expireFilter_moves s n).of_next e
  | rateEnable g code => exact ((afterWrite_moves _ _).after (setRate_moves s g _)).of_next e
  | rateDisable g code => exact ((afterWrite_moves _ _).after (setRate_moves s g _)).of_next e
  | rateDecimation g code => exact ((afterWrite_moves _ _).after (setRate_moves s g _)).of_next e
  | ratePeriodWrite g hi => exact ((afterWrite_moves _ _).after (setRate_moves s g _)).of_next e
  | ratePeriodExpiry g => exact (expirePeriod_moves s g).of_next e
  | delayExpiry h => exact (expireDelay_course s h).moves.of_next e
  | integrationExpiry h => exact (moves_if (endCondition_moves s h false)).of_next e
  | widthLimitExpiry h => exact (moves_if (endCondition_moves s h true)).of_next e
  | spacingExpiry h => exact (expireSpacing_course s h).moves.of_next e
  | strobeWaitExpiry h => exact (expireStrobeWait_course s h).moves.of_next e
  | overdueTickAttempt h => exact (moves_if (enterPacing_course s h).moves).of_next e
  | strobeEnable n => exact ((afterWrite_moves _ _).after (setStrobe_course s n true _).moves).of_next e
  | strobeDisable n => exact ((afterWrite_moves _ _).after (setStrobe_course s n false _).moves).of_next e
  | strobePolarity n low => exact ((afterWrite_moves _ _).after (setStrobe_course s n _ low).moves).of_next e
  | linkEnable => exact ((afterWrite_moves _ _).after (writeLinkCfg_moves s true)).of_next e
  | linkDisable => exact ((afterWrite_moves _ _).after (writeLinkCfg_moves s false)).of_next e
  | grant => exact (tryGrant_moves s).of_next e
  | frameSent => exact (readout_moves s s.arb _).of_next e
  | complete tag status level =>
    refine Moves.of_next ?_ e
    split
    · exact .refl s
    · exact takeComplete_moves s tag status level
  | linkError f => exact (receiveFrame_moves s f).of_next e
  | shortFrame =>
    refine Moves.of_next ?_ e
    split
    · exact .refl s
    · exact (readout_moves _ _ _).after (arbCause_moves s _ linkBit)
  | readoutTimeout => exact (expireReadout_moves s).of_next e
  | linkCntClear => exact ((afterWrite_moves _ _).after (readout_moves s _ s.link)).of_next e
  | tbLoRead => exact ((afterRead_moves _ _ _).after (captureHigh_moves s)).of_next e
  | tbDivWrite w => exact ((afterWrite_moves _ _).after (writeDivider_moves s w)).of_next e
  | tick => exact (tickEnd_moves s).of_next e
  | byteTimeIdle => exact (readout_moves s s.arb _).of_next e
  | irqEnWrite w => exact ((afterWrite_moves _ _).after (irqEn_moves s w)).of_next e
  | irqPolarity high => exact ((afterWrite_moves _ _).after (irqCfg_moves s high)).of_next e

end Sys2Proof.Machine
end

section
/-! PROOFS. What a word comes to: a REGISTER_WRITE and an UNLISTED_COMMAND word do what another row does, the port apart, but
for a plain store and for the words of HEAD_EN and STROBE_CFG. What holds from step to step then follows from the rows. -/

namespace Sys2Proof

/-- The row of a command of Table 11.4. -/
def CmdName.row (u : Byte) : CmdName → Instr
  | .start => .start u
  | .stop => .stop u
  | .abort => .abort u
  | .clear => .clear u
  | .headReset => .headReset u
  | .softTrigger => .softTrigger u
  | .apply => .apply u
  | .mark => .mark u
  | .discard => .discard u
  | .programWrite => .programWrite u
  | .programRead => .programRead u
  | .programClear => .programClear u
  | .tbLoad => .tbLoad u
  | .softReset => .softReset u

/-- A row that is not one of the two words whose contents say what they do. -/
def Instr.isRow : Instr → Bool
  | .registerWrite _ | .unlistedCommand _ => false
  | _ => true

theorem CmdName.row_isRow (c : CmdName) (u : Byte) : (c.row u).isRow = true := by cases c <;> rfl

end Sys2Proof

namespace Sys2Proof.Machine

variable {s t : State}

/-! ## Command words -/

theorem exec_row (c : CmdName) (u : Byte) (s : State) : exec (c.row u) s = .next (commandWord c (actOf c) u s) := by
  cases c <;> rfl

/-- What a word comes to, the port apart: what another row does, a plain store, or a word of HEAD_EN or STROBE_CFG. -/
inductive WordActs (w : Word) (s : State) : State → Prop
  | row {c : Instr} {u : State} (isRow : c.isRow = true) (e : exec c s = .next u) (p : HostPort) :
      WordActs w s { u with port := p }
  | store (buffer : Vector Word 16) (rates : Vector RateGen 2) (p : HostPort) :
      WordActs w s { s with buffer := buffer, rates := rates, port := p }
  | headEn (p : HostPort) : WordActs w s { writeHeadEn w s with port := p }
  | strobeCfg (p : HostPort) : WordActs w s { writeStrobeCfg w s with port := p }

theorem WordActs.port {w : Word} (h : WordActs w s t) (p : HostPort) : WordActs w s { t with port := p } := by
  cases h with
  | row isRow e => exact .row isRow e p
  | store buffer rates => exact .store buffer rates p
  | headEn => exact .headEn p
  | strobeCfg => exact .strobeCfg p

/-- A row that is a write of its register. -/
theorem WordActs.of_write {w : Word} {c : Instr} {a : Addr} {u : State} (isRow : c.isRow = true)
    (e : exec c s = .next (afterWrite a u)) : WordActs w s u := WordActs.row isRow e u.port

theorem WordActs.of_port {w : Word} (p : HostPort) : WordActs w s { s with port := p } := .store s.buffer s.rates p

theorem WordActs.unchanged {w : Word} : WordActs w s s := .store s.buffer s.rates s.port

theorem takeWord_acts (w : Word) (s : State) : WordActs w s (takeWord w s) := by
  simp only [takeWord, takeWith, actOfCode]
  cases hc : cmdOfCode (w.extractLsb' 0 8) with
  | none => exact .of_port _
  | some c => exact (WordActs.row (CmdName.row_isRow c 0) (exec_row c 0 s) s.port).port _

theorem writeRateWord_acts (g : RateIx) (k : Nat) (w : Word) (s : State) : WordActs w s (writeRateWord g k w s) := by
  simp only [writeRateWord]
  split
  · exact .store s.buffer _ s.port
  · exact .store s.buffer _ s.port
  · exact .store s.buffer _ s.port
  · exact .unchanged

theorem WordActs.ite {w : Word} {c : Prop} [Decidable c] {u v : State} (hu : WordActs w s u) (hv : WordActs w s v) :
    WordActs w s (if c then u else v) := by
  split
  · exact hu
  · exact hv

theorem writeLineWord_acts (n : LineIx) (w : Word) (s : State) : WordActs w s (writeLineWord n w s) := by
  simp only [writeLineWord]
  cases w.getLsbD 15 with
  | false => exact .of_write (c := .lineDisable _ _ _) rfl rfl
  | true => exact .of_write (c := .lineEnable _ _ _) rfl rfl

theorem writeLinkCfg_acts (on : Bool) (w : Word) (s : State) : WordActs w s (writeLinkCfg on s) := by
  cases on with
  | false => exact .of_write (c := .linkDisable) rfl rfl
  | true => exact .of_write (c := .linkEnable) rfl rfl

/-- Address by address (Table 11.1). -/
theorem writeRegister_acts (a : Addr) (w : Word) (s : State) : WordActs w s (writeRegister a w s) :=
  .ite (.of_port _) <| .ite (.of_port _) <| .ite (takeWord_acts w s) <| .ite (.store _ s.rates s.port) <|
  .ite (.of_port _) <| .ite (.of_write (c := .ringDataWrite w) rfl rfl) <|
  .ite (.of_write (c := .headDropClear _) rfl rfl) <| .ite (.headEn _) <| .ite (writeLineWord_acts _ w s) <|
  .ite (writeRateWord_acts _ _ w s) <| .ite (writeRateWord_acts _ _ w s) <| .ite (.strobeCfg _) <|
  .ite (writeLinkCfg_acts _ w s) <| .ite (.of_write (c := .linkCntClear) rfl rfl) <|
  .ite (.of_write (c := .qThreshWrite w) rfl rfl) <| .ite (.of_write (c := .tbDivWrite w) rfl rfl) <|
  .ite (.of_write (c := .irqFlagsClear w) rfl rfl) <| .ite (.of_write (c := .irqEnWrite w) rfl rfl) <|
  .ite (.of_write (c := .irqPolarity _) rfl rfl) .unchanged

theorem readEffect_acts (a : Addr) (w : Word) (s : State) : WordActs w s (readEffect a s) := by
  simp only [readEffect]
  repeat' split
  · exact WordActs.row (c := .tbLoRead) rfl rfl s.port
  · exact (WordActs.row (c := .ringDataRead) rfl rfl s.port).port _
  · exact WordActs.row (c := .queueRead) rfl rfl s.port
  · exact .unchanged

theorem registerWrite_acts {w : Word} (e : exec (.registerWrite w) s = .next t) : WordActs w s t := by
  simp only [exec, execRegisterWrite] at e
  split at e <;> obtain rfl := Host.Outcome.next.inj e
  · simp only [transferWord]
    split
    · exact (readEffect_acts _ w s).port _
    · exact (writeRegister_acts _ w s).port _
  · exact .unchanged

theorem unlistedCommand_acts {w : Word} (e : exec (.unlistedCommand w) s = .next t) : WordActs w s t := by
  obtain rfl := Host.Outcome.next.inj e
  exact (takeWord_acts w s).port _

/-! ## From the rows to the step -/

/-- What the rows, the plain stores and the words of HEAD_EN and STROBE_CFG do, whatever the port shows, every
command does. -/
theorem exec_induction {R : State → State → Prop} (row : ∀ c s t, c.isRow = true → exec c s = .next t → R s t)
    (port : ∀ s t p, R s t → R s { t with port := p })
    (store : ∀ s buffer rates, R s { s with buffer := buffer, rates := rates })
    (headEn : ∀ s w, R s (writeHeadEn w s)) (strobeCfg : ∀ s w, R s (writeStrobeCfg w s))
    {c : Instr} {s t : State} (e : exec c s = .next t) : R s t := by
  have word {w : Word} {t : State} (h : WordActs w s t) : R s t := by
    cases h with
    | row isRow e p => exact port _ _ p (row _ s _ isRow e)
    | store buffer rates p => exact port _ _ p (store s buffer rates)
    | headEn p => exact port _ _ p (headEn s w)
    | strobeCfg p => exact port _ _ p (strobeCfg s w)
  cases c with
  | registerWrite w => exact word (registerWrite_acts e)
  | unlistedCommand w => exact word (unlistedCommand_acts e)
  | _ => exact row _ s t rfl e

/-- What every command does from every state, and a REFCLK period within a tick, every step does. -/
theorem step_induction {R : State → State → Prop} (command : ∀ c s t, exec c s = .next t → R s t)
    (period : ∀ s : State, s.tb.refclks < s.tb.tickCode.toNat →
      R s { s with tb := { s.tb with refclks := s.tb.refclks + 1, fresh := false } })
    (queue : ∀ (s t : State) n l, R { s with choices := n, pending := l } t → R s t)
    {s t : State} (e : step s = .next t) : R s t := by
  simp only [step] at e
  split at e
  · rename_i c rest _
    exact queue s t s.choices rest (command c _ t e)
  simp only [idle] at e
  split at e
  · obtain rfl := Host.Outcome.next.inj e
    simp only [refclk]
    split
    · exact period s (by omega)
    · exact command .tick s _ rfl
  · exact command _ s t e
  · exact queue s t (s.choices + 1) s.pending (command _ _ t e)

end Sys2Proof.Machine
end

section
/-! PROOFS. The rows that stand apart, and the statements that follow from the moves: every command completes, records are
appended at the tail, DONEn and FAULTn are raised, the laws of the record queue, the lines, the clock and the rings. -/

namespace Sys2Proof.Machine

variable (s : State) (h : HeadIx)

/-! ## HEAD_EN, HEAD_RESET -/

theorem setHead_frame (y : Head) : ∃ hs, s.setHead h y = { s with heads := hs } := ⟨_, rfl⟩

theorem writeHeadEn_frame (w : Word) : ∃ hs cs a l n,
    writeHeadEn w s = { s with heads := hs, chans := cs, arb := a, link := l, choices := n } := by
  obtain ⟨order, k, -, e⟩ := writeHeadEn_spec s w
  rw [e]
  refine inTurn_induction (P := fun t => ∃ hs cs a l n,
    t = { s with heads := hs, chans := cs, arb := a, link := l, choices := n }) ?_ ?_ order _
    ⟨s.heads, s.chans, s.arb, s.link, k, rfl⟩
  · rintro h t ⟨_, _, _, _, n, rfl⟩
    obtain ⟨hs, cs, a, l, e⟩ := setHeadEnable_frame _ h (w.getLsbD h.val)
    exact ⟨hs, cs, a, l, n, e⟩
  · rintro t ⟨_, cs, _, _, _, rfl⟩
    obtain ⟨hs, a, l, n, e⟩ := grantOrNot_frame _
    exact ⟨hs, cs, a, l, n, e⟩

theorem enableHead_frame : ∃ hs, enableHead h s = { s with heads := hs } := by
  simp only [enableHead]
  split
  · exact ⟨s.heads, rfl⟩
  · exact setHead_frame s h _

theorem disableHead_frame : ∃ hs cs a l,
    disableHead h s = { s with heads := hs, chans := cs, arb := a, link := l } := setHeadEnable_frame s h false

/-- The actions of a HEAD_RESET before the head's own (R162, steps 1 and 2). -/
theorem headReset_moves : Moves s (resetSlot h (teardown h s)) :=
  (resetSlot_moves _ h).after (teardown_course s h).moves

theorem headReset_head : (headReset h s).head h = ((resetSlot h (teardown h s)).head h).afterReset :=
  head_setHead_self _ _ _

theorem headReset_head_ne {k : HeadIx} (hk : k ≠ h) :
    (headReset h s).head k = (resetSlot h (teardown h s)).head k :=
  head_setHead_ne _ hk _

theorem disableHead_head (on : (s.head h).enabled = true) :
    (disableHead h s).head h = { (headReset h s).head h with enabled := false, state := .off } := by
  simp only [disableHead, on, if_true, modHead_eq_setHead, head_setHead_self]

theorem disableHead_head_ne {k : HeadIx} (hk : k ≠ h) (on : (s.head h).enabled = true) :
    (disableHead h s).head k = (headReset h s).head k := by
  simp only [disableHead, on, if_true, modHead_eq_setHead, head_setHead_ne _ hk]

theorem disableHead_off (off : (s.head h).enabled = false) : disableHead h s = s := by
  simp only [disableHead, off]; rfl

theorem enableHead_on (on : (s.head h).enabled = true) : enableHead h s = s := by
  simp only [enableHead, on]; rfl

theorem enableHead_off (off : (s.head h).enabled = false) : enableHead h s = s.setHead h { s.head h with
    enabled := true, state := .idle, ctx := Context.cleared, timers := HeadTimers.stopped, slot := .empty } := by
  simp only [enableHead, off]; rfl

variable {s h}

/-- What a property of every head needs for a HEAD_RESET. -/
theorem headReset_heads {P : HeadIx → Head → Prop} (k : HeadIx)
    (moved : ∀ k, P k ((resetSlot h (teardown h s)).head k))
    (own : ∀ hd, P h hd → P h hd.afterReset) : P k ((headReset h s).head k) := by
  by_cases e : k = h
  · subst e; rw [headReset_head]; exact own _ (moved k)
  · rw [headReset_head_ne s h e]; exact moved k

/-! ## The rows that stand apart -/

/-- CLEAR takes a head out of FAULT or does nothing. -/
theorem cmdClear_cases (s : State) : (cmdClear s).2 = s
    ∨ ∃ h, (s.head h).state = .fault ∧ (cmdClear s).2 = s.setHead h { s.head h with state := .idle } := by
  simp only [cmdClear, onHead]
  repeat' split
  · exact .inr ⟨_, ‹_›, rfl⟩
  all_goals exact .inl rfl

/-- APPLY is accepted for an accepted staged ring, or does nothing. -/
theorem cmdApply_cases (s : State) : (cmdApply s).2 = s
    ∨ ∃ h, (s.head h).ring.staged.ok = true ∧ (cmdApply s).2 = s.setHead h (s.head h).applyAccepted := by
  simp only [cmdApply, onHead]
  repeat' split
  · exact .inr ⟨_, ‹_›, rfl⟩
  all_goals exact .inl rfl

theorem cmdHeadReset_cases (s : State) : (cmdHeadReset s).2 = s ∨ ∃ h, (cmdHeadReset s).2 = headReset h s := by
  simp only [cmdHeadReset, onHead]
  split
  · exact .inr ⟨_, rfl⟩
  · exact .inl rfl

/-- What each row that stands apart comes to, the port apart. -/
inductive ApartActs (s : State) : Instr → State → Prop
  | powerOn : ApartActs s .powerOnReset { State.reset with tin := s.tin, choices := s.choices, pending := s.pending }
  | clear (u : Byte) (p : HostPort) (h : HeadIx) (e : (s.head h).state = .fault) :
      ApartActs s (.clear u) { s.setHead h { s.head h with state := .idle } with port := p }
  | apply (u : Byte) (p : HostPort) (h : HeadIx) (e : (s.head h).ring.staged.ok = true) :
      ApartActs s (.apply u) { s.setHead h (s.head h).applyAccepted with port := p }
  | headReset (u : Byte) (p : HostPort) (h : HeadIx) : ApartActs s (.headReset u) { headReset h s with port := p }
  | discard (u : Byte) (p : HostPort) : ApartActs s (.discard u) { s with queue := s.queue.dropOldest, port := p }
  | softReset (u : Byte) (p : HostPort) : ApartActs s (.softReset u) { softReset s with port := p }
  | headEnable (h : HeadIx) (p : HostPort) : ApartActs s (.headEnable h) { enableHead h s with port := p }
  | headDisable (h : HeadIx) (p : HostPort) : ApartActs s (.headDisable h) { disableHead h s with port := p }
  | queueRead (p : HostPort) : ApartActs s .queueRead { s with queue := s.queue.readOne, port := p }
  | qThresh (w : Word) (p : HostPort) : ApartActs s (.qThreshWrite w) { writeThreshold w s with port := p }
  | irqFlags (w : Word) (p : HostPort) : ApartActs s (.irqFlagsClear w) { writeIrqFlags w s with port := p }
  | port (c : Instr) (p : HostPort) : ApartActs s c { s with port := p }

/-- A command word is its act, but for the port. -/
theorem commandWord_port (c : CmdName) (act : State → Verdict × State) (u : Byte) (s : State) :
    ∃ p, commandWord c act u s = { (act s).2 with port := p } := ⟨_, rfl⟩

theorem exec_apart {c : Instr} (hc : c.standsApart = true) (isRow : c.isRow = true) {s t : State}
    (e : exec c s = .next t) : ApartActs s c t := by
  cases c with
  | powerOnReset => obtain rfl := Host.Outcome.next.inj e; exact .powerOn
  | clear u =>
    obtain rfl := Host.Outcome.next.inj e
    obtain ⟨p, hp⟩ := commandWord_port .clear cmdClear u s
    rw [hp]
    obtain e | ⟨h, hf, e⟩ := cmdClear_cases s <;> rw [e]
    · exact .port _ p
    · exact .clear u p h hf
  | apply u =>
    obtain rfl := Host.Outcome.next.inj e
    obtain ⟨p, hp⟩ := commandWord_port .apply cmdApply u s
    rw [hp]
    obtain e | ⟨h, hok, e⟩ := cmdApply_cases s <;> rw [e]
    · exact .port _ p
    · exact .apply u p h hok
  | headReset u =>
    obtain rfl := Host.Outcome.next.inj e
    obtain ⟨p, hp⟩ := commandWord_port .headReset cmdHeadReset u s
    rw [hp]
    obtain e | ⟨h, e⟩ := cmdHeadReset_cases s <;> rw [e]
    · exact .port _ p
    · exact .headReset u p h
  | discard u => obtain rfl := Host.Outcome.next.inj e; exact .discard u _
  | softReset u => obtain rfl := Host.Outcome.next.inj e; exact .softReset u _
  | headEnable h => obtain rfl := Host.Outcome.next.inj e; exact .headEnable h _
  | headDisable h => obtain rfl := Host.Outcome.next.inj e; exact .headDisable h _
  | queueRead => obtain rfl := Host.Outcome.next.inj e; exact .queueRead _
  | qThreshWrite w => obtain rfl := Host.Outcome.next.inj e; exact .qThresh w _
  | irqFlagsClear w => obtain rfl := Host.Outcome.next.inj e; exact .irqFlags w _
  | registerWrite | unlistedCommand => cases isRow
  | _ => cases hc

/-- A relation that moves and the rows that stand apart satisfy, and the words of HEAD_EN, every command satisfies. -/
theorem exec_induction_moves {R : State → State → Prop} (moves : ∀ {s t}, Moves s t → R s t)
    (port : ∀ s t p, R s t → R s { t with port := p }) (apart : ∀ {s t c}, ApartActs s c t → R s t)
    (headEn : ∀ s w, R s (writeHeadEn w s)) {c : Instr} {s t : State} (e : exec c s = .next t) : R s t := by
  refine exec_induction (fun c s t isRow e => ?_) port (fun s buffer rates => moves ?_) headEn
    (fun s w => moves (writeStrobeCfg_course s w).moves) e
  · cases hc : c.standsApart with
    | false => exact moves (exec_moves hc e)
    | true => exact apart (exec_apart hc isRow e)
  · exact Moves.after (registers_moves _ _ buffer _) (Move.moves (.inputs s s.tin s.lines rates id))

/-! ## The waiting commands (log 11, 18) -/

theorem Move.pending {s t : State} (m : Move s t) : t.pending = s.pending := by
  cases m with
  | quiet q =>
    cases q with
    | record h body => obtain ⟨_, _, _, e⟩ := offer_frame s h body; rw [e]; rfl
    | head | ends | cause | chans => rfl
  | slot | heads | mark | irqSetup | readout | inputs | registers => rfl

theorem Moves.pending {s t : State} (m : Moves s t) : t.pending = s.pending :=
  m.induction (R := fun s t => t.pending = s.pending) (fun _ => rfl) (fun a b => b.trans a) Move.pending

theorem ApartActs.pending {s t : State} {c : Instr} (a : ApartActs s c t) : t.pending = s.pending := by
  cases a with
  | headReset u p h => obtain ⟨_, _, _, _, e⟩ := headReset_frame s h; rw [e]
  | headEnable h p => obtain ⟨_, e⟩ := enableHead_frame s h; rw [e]
  | headDisable h p => obtain ⟨_, _, _, _, e⟩ := disableHead_frame s h; rw [e]
  | powerOn | clear | apply | discard | softReset | queueRead | qThresh | irqFlags | port => rfl

theorem exec_pending {c : Instr} {s t : State} (e : exec c s = .next t) : t.pending = s.pending :=
  exec_induction_moves (R := fun s t => t.pending = s.pending) Moves.pending (fun _ _ _ h => h) ApartActs.pending
    (fun s w => by obtain ⟨_, _, _, _, _, e⟩ := writeHeadEn_frame s w; rw [e]) e

theorem exec_next (c : Instr) (s : State) : ∃ t, exec c s = .next t := by
  cases c with
  | registerWrite w =>
    simp only [exec, execRegisterWrite]
    split <;> exact ⟨_, rfl⟩
  | _ => exact ⟨_, rfl⟩

/-! ## The record queue -/

/-- The rows that stand apart, but those that take from the queue, leave its records and its read position. -/
theorem ApartActs.records {s t : State} {c : Instr} (a : ApartActs s c t) (hread : c ≠ .queueRead)
    (hpower : c ≠ .powerOnReset) (htake : ∀ u : Byte, c ≠ .discard u ∧ c ≠ .softReset u) :
    t.queue.readPos = s.queue.readPos ∧ t.queue.records = s.queue.records := by
  cases a with
  | headReset u p h => obtain ⟨_, _, _, _, e⟩ := headReset_frame s h; rw [e]; exact ⟨rfl, rfl⟩
  | headEnable h p => obtain ⟨_, e⟩ := enableHead_frame s h; rw [e]; exact ⟨rfl, rfl⟩
  | headDisable h p => obtain ⟨_, _, _, _, e⟩ := disableHead_frame s h; rw [e]; exact ⟨rfl, rfl⟩
  | clear | apply | qThresh | irqFlags | port => exact ⟨rfl, rfl⟩
  | powerOn => exact absurd rfl hpower
  | queueRead => exact absurd rfl hread
  | discard u => exact absurd rfl (htake u).1
  | softReset u => exact absurd rfl (htake u).2

namespace RecordQueue

variable {q : RecordQueue} {r : Record} {rs : List Record}

/-- The oldest record leaves, and the rest stands in form. -/
theorem wf_tail (law : q.WF) (e : q.records = r :: rs) : { q with records := rs, readPos := 0 }.WF := by
  obtain ⟨hpos, hocc, hthreshold⟩ := law
  rw [e] at hpos
  have hlen : (r :: rs).map Record.len = r.len :: rs.map Record.len := rfl
  refine ⟨?_, ?_, hthreshold⟩
  · cases rs with
    | nil => exact Nat.one_pos
    | cons a l => exact Nat.lt_of_lt_of_le Nat.zero_lt_two a.two_le_len
  · simp only [occupancy, e, hlen, List.sum_cons] at hocc ⊢
    simp only at hpos
    omega

theorem wf_dropOldest (law : q.WF) : q.dropOldest.WF := by
  cases e : q.records with
  | nil => rwa [dropOldest_nil e]
  | cons r rs => rw [dropOldest_cons e]; exact wf_tail law e

theorem readOne_nil (e : q.records = []) : q.readOne = q := by simp only [readOne, e]

theorem readOne_cons (e : q.records = r :: rs) : q.readOne =
    if r.len ≤ q.readPos + 1 then { q with records := rs, readPos := 0 } else { q with readPos := q.readPos + 1 } := by
  simp only [readOne, e]

theorem wf_readOne (law : q.WF) : q.readOne.WF := by
  cases e : q.records with
  | nil => rwa [readOne_nil e]
  | cons r rs =>
    rw [readOne_cons e]
    split
    · exact wf_tail law e
    · obtain ⟨-, hocc, hthreshold⟩ := law
      refine ⟨?_, ?_, hthreshold⟩
      · rw [e]; exact Nat.lt_of_not_le ‹_›
      · simp only [occupancy] at hocc ⊢; omega

theorem wf_threshold (law : q.WF) (w : Word) : { q with threshold := clampThreshold w }.WF := by
  obtain ⟨hpos, hocc, -⟩ := law
  refine ⟨hpos, hocc, ?_, ?_⟩ <;> simp only [clampThreshold, Config.queueWords] <;> omega

theorem wf_empty (law : q.WF) : { q with records := [], readPos := 0 }.WF := by
  obtain ⟨-, -, hthreshold⟩ := law
  exact ⟨Nat.one_pos, Nat.zero_le _, hthreshold⟩

end RecordQueue

/-! ## The queue's form, the lines and the clock -/

/-- What O52 says of two states. -/
abbrev QueueLinesClock (s t : State) : Prop :=
  (s.queue.WF → t.queue.WF) ∧ (s.LineLaw → t.LineLaw) ∧ (s.ClockLaw → t.ClockLaw)

theorem QueueLinesClock.of_eq {s t : State} (queue : t.queue = s.queue) (lines : t.lines = s.lines)
    (tin : t.tin = s.tin) (tb : t.tb = s.tb) (irq : t.irq = s.irq) : QueueLinesClock s t := by
  refine ⟨by rw [queue]; exact id, fun law n => ?_, fun law => by rw [State.ClockLaw, tb, irq]; exact law⟩
  simp only [State.line, State.pin, lines, tin]
  exact law n

theorem Moves.queueLinesClock {s t : State} (m : Moves s t) : QueueLinesClock s t :=
  ⟨m.queueGrows.2, m.lineLaw, m.clockLaw⟩

theorem Line.softReset_law (pin : Bool) (l : Line) : (l.softReset pin).Law pin := by
  intro q hq
  obtain ⟨_, _, rfl⟩ := Option.mem_map.1 hq
  exact ⟨fun _ => rfl, fun c hc => by cases hc⟩

theorem softReset_queueLinesClock (s : State) : QueueLinesClock s (softReset s) := by
  refine ⟨RecordQueue.wf_empty, fun _ n => ?_, fun ⟨htick, hfresh, _, henables⟩ => ⟨htick, hfresh, ?_, henables⟩⟩
  · rw [line_softReset]; exact Line.softReset_law _ _
  · exact BitVec.zero_and

theorem reset_queue_wf : State.reset.queue.WF := by decide

theorem reset_clockLaw : State.reset.ClockLaw := by decide

theorem reset_lineLaw (tin : Vector Bool 8) : { State.reset with tin := tin }.LineLaw := by
  intro n q hq
  have hnone : State.reset.line n = ⟨false, 0, none⟩ := Vector.getElem_replicate _
  change q ∈ (State.reset.line n).qualifier at hq
  rw [hnone] at hq
  cases hq

theorem ApartActs.queueLinesClock {s t : State} {c : Instr} (a : ApartActs s c t) : QueueLinesClock s t := by
  cases a with
  | headReset u p h => obtain ⟨_, _, _, _, e⟩ := headReset_frame s h; rw [e]; exact .of_eq rfl rfl rfl rfl rfl
  | headEnable h p => obtain ⟨_, e⟩ := enableHead_frame s h; rw [e]; exact .of_eq rfl rfl rfl rfl rfl
  | headDisable h p => obtain ⟨_, _, _, _, e⟩ := disableHead_frame s h; rw [e]; exact .of_eq rfl rfl rfl rfl rfl
  | clear | apply | port => exact .of_eq rfl rfl rfl rfl rfl
  | powerOn => exact ⟨fun _ => reset_queue_wf, fun _ => reset_lineLaw s.tin, fun _ => reset_clockLaw⟩
  | queueRead => exact ⟨RecordQueue.wf_readOne, id, id⟩
  | discard u => exact ⟨RecordQueue.wf_dropOldest, id, id⟩
  | qThresh w => exact ⟨fun law => RecordQueue.wf_threshold law w, id, id⟩
  | softReset u => exact softReset_queueLinesClock s
  | irqFlags w =>
    refine ⟨id, id, fun ⟨htick, hfresh, hflags, henables⟩ => ⟨htick, hfresh, ?_, henables⟩⟩
    show s.irq.flags &&& ~~~w &&& ~~~stickyMask = 0
    rw [BitVec.and_assoc, BitVec.and_comm (~~~w), ← BitVec.and_assoc, hflags]
    exact BitVec.zero_and

theorem exec_queueLinesClock {c : Instr} {s t : State} (e : exec c s = .next t) : QueueLinesClock s t :=
  exec_induction_moves (R := QueueLinesClock) Moves.queueLinesClock (fun _ _ _ h => h) ApartActs.queueLinesClock
    (fun s w => by
      obtain ⟨_, _, _, _, _, e⟩ := writeHeadEn_frame s w
      rw [e]; exact .of_eq rfl rfl rfl rfl rfl) e

/-! ## The ring law (R85, R91, R93) -/

theorem State.RingsKept.of_laws {s : State} (rings : s.RingLaw) (states : s.HeadStateLaw) : s.RingsKept := by
  refine ⟨rings, fun h off => ?_⟩
  obtain ⟨henabled, -, -⟩ := states h
  obtain ⟨-, hpending, -, -⟩ := rings h
  have hoff : (s.head h).state = .off := by
    by_contra hne
    rw [henabled.2 hne] at off
    cases off
  by_contra hp
  have hrun := hpending (Bool.eq_true_of_not_eq_false hp)
  rw [hoff] at hrun
  cases hrun

/-- A head on its own keeps the two facts. -/
theorem State.RingsKept.setHead {s : State} {h : HeadIx} {y : Head} (k : s.RingsKept) (law : y.RingLaw)
    (off : y.enabled = false → y.ring.applyPending = false) : (s.setHead h y).RingsKept := by
  refine ⟨fun i => ?_, fun i => ?_⟩ <;> rw [head_setHead] <;> split
  · exact law
  · exact k.1 i
  · exact off
  · exact k.2 i

/-- A head with its ring reset, its group closed and its slot EMPTY. -/
theorem Head.RingLaw.of_reset {x y : Head} (law : x.RingLaw) (ring : y.ring = x.ring.afterReset)
    (group : y.ctx.group = none) (slot : y.slot = .empty) : y.RingLaw := by
  obtain ⟨⟨hlive, -, -⟩, -, -, -⟩ := law
  obtain ⟨hlength, -, -⟩ := (Ring.ok_iff _).1 hlive
  rw [RingLaw, ring, group, slot]
  refine ⟨⟨hlive, hlength, fun e => Bool.noConfusion e⟩, fun e => Bool.noConfusion e, no_group_ok, fun c hc => ?_⟩
  cases hc

theorem headReset_ringsKept {s : State} (h : HeadIx) (k : s.RingsKept) : (headReset h s).RingsKept :=
  have moved := (headReset_moves s h).ringsKept k
  moved.setHead (.of_reset (moved.1 h) rfl rfl rfl) fun _ => rfl

theorem enableHead_ringsKept {s : State} (h : HeadIx) (k : s.RingsKept) : (enableHead h s).RingsKept := by
  cases on : (s.head h).enabled with
  | true => rwa [enableHead_on s h on]
  | false =>
    rw [enableHead_off s h on]
    obtain ⟨hring, -, -, -⟩ := k.1 h
    have hpending := k.2 h on
    refine k.setHead ⟨hring, fun e => ?_, Head.no_group_ok, fun c hc => by cases hc⟩ fun _ => hpending
    rw [show (s.head h).ring.applyPending = true from e] at hpending
    cases hpending

theorem disableHead_ringsKept {s : State} (h : HeadIx) (k : s.RingsKept) : (disableHead h s).RingsKept := by
  cases on : (s.head h).enabled with
  | false => rwa [disableHead_off s h on]
  | true =>
    have moved := (headReset_moves s h).ringsKept k
    simp only [disableHead, on, if_true, modHead_eq_setHead, headReset_head]
    exact (headReset_ringsKept h k).setHead (.of_reset (moved.1 h) rfl rfl rfl) fun _ => rfl

theorem setHeadEnable_ringsKept {s : State} (h : HeadIx) (on : Bool) (k : s.RingsKept) :
    (setHeadEnable h on s).RingsKept := by
  cases on with
  | false => exact disableHead_ringsKept h k
  | true => exact enableHead_ringsKept h k

theorem writeHeadEn_ringsKept {s : State} (w : Word) (k : s.RingsKept) : (writeHeadEn w s).RingsKept := by
  obtain ⟨order, n, -, e⟩ := writeHeadEn_spec s w
  rw [e]
  exact inTurn_induction (P := State.RingsKept) (fun h _ k => setHeadEnable_ringsKept h _ k)
    (fun t k => (grantOrNot_moves t).ringsKept k) order _ k

theorem Head.applyAccepted_ringLaw {hd : Head} (law : hd.RingLaw) (accepted : hd.ring.staged.ok = true) :
    hd.applyAccepted.RingLaw := by
  obtain ⟨⟨hlive, hpointer, -⟩, -, hgroup, hslot⟩ := law
  simp only [applyAccepted]
  split
  · rename_i running
    exact ⟨⟨hlive, hpointer, fun _ => accepted⟩, fun _ => running, hgroup, hslot⟩
  · obtain ⟨hlength, -, -⟩ := (Ring.ok_iff _).1 accepted
    exact ⟨⟨accepted, hlength, fun e => Bool.noConfusion e⟩, fun e => Bool.noConfusion e, hgroup, hslot⟩

theorem ringLaw_setHead {s : State} {h : HeadIx} {y : Head} (law : s.RingLaw) (own : y.RingLaw) :
    (s.setHead h y).RingLaw := by
  intro i
  rw [head_setHead]
  split
  · exact own
  · exact law i

theorem reset_ringLaw : Head.reset.RingLaw := by decide

theorem ApartActs.ringLaw {s t : State} {c : Instr} (a : ApartActs s c t) (k : s.RingsKept) : t.RingLaw := by
  cases a with
  | powerOn =>
    intro h
    have hreset : State.reset.head h = Head.reset := Vector.getElem_replicate _
    show (State.reset.head h).RingLaw
    rw [hreset]; exact reset_ringLaw
  | clear u p h hfault =>
    obtain ⟨hring, hpending, hgroup, hslot⟩ := k.1 h
    refine ringLaw_setHead k.1 ⟨hring, fun e => ?_, hgroup, hslot⟩
    have hrun := hpending e
    rw [hfault] at hrun
    cases hrun
  | apply u p h accepted => exact ringLaw_setHead k.1 (Head.applyAccepted_ringLaw (k.1 h) accepted)
  | headReset u p h => exact (headReset_ringsKept h k).1
  | softReset u p =>
    intro h
    show ((Machine.softReset s).head h).RingLaw
    rw [head_softReset]
    exact .of_reset (k.1 h) rfl rfl rfl
  | headEnable h p => exact (enableHead_ringsKept h k).1
  | headDisable h p => exact (disableHead_ringsKept h k).1
  | discard | queueRead | qThresh | irqFlags | port => exact k.1

theorem exec_ringLaw {c : Instr} {s t : State} (e : exec c s = .next t) : s.RingsKept → t.RingLaw :=
  exec_induction_moves (R := fun s t => s.RingsKept → t.RingLaw) (fun m k => (m.ringsKept k).1) (fun _ _ _ h => h)
    ApartActs.ringLaw (fun _ w k => (writeHeadEn_ringsKept w k).1) e

/-! ## DONEn and FAULTn (R159, R164) -/

/-- A head is in FAULT only where it was there or FAULTn stands, and causes stand. -/
structure FaultSignalled (s t : State) : Prop where
  stands : ∀ i, s.irq.flags.getLsbD i = true → t.irq.flags.getLsbD i = true
  fault : ∀ h, (t.head h).state = .fault → (s.head h).state = .fault ∨ t.irq.flags.getLsbD (12 + h.val) = true

theorem Signalled.faults {s t : State} (x : Signalled s t) : FaultSignalled s t := ⟨x.stands, x.fault⟩

namespace FaultSignalled

variable {s t u : State}

theorem trans (a : FaultSignalled s t) (b : FaultSignalled t u) : FaultSignalled s u where
  stands i h := b.stands i (a.stands i h)
  fault h hu := (b.fault h hu).elim (fun ht => (a.fault h ht).imp_right (b.stands _)) .inr

theorem setHead {h : HeadIx} {y : Head} (x : FaultSignalled s t) (state : y.state ≠ .fault) :
    FaultSignalled s (t.setHead h y) := by
  refine ⟨x.stands, fun k hk => ?_⟩
  rw [head_setHead] at hk
  split at hk
  · exact absurd hk state
  · exact x.fault k hk

theorem of_headReset (h : HeadIx) (s : State) : FaultSignalled s (headReset h s) := by
  refine (headReset_moves s h).signalled.faults.setHead ?_
  simp only [Head.afterReset]
  split <;> exact fun e => by cases e

theorem of_setHeadEnable (h : HeadIx) (on : Bool) (s : State) : FaultSignalled s (setHeadEnable h on s) := by
  have same : FaultSignalled s s := ⟨fun _ h => h, fun _ => .inl⟩
  simp only [setHeadEnable, enableHead, disableHead, modHead_eq_setHead]
  repeat' split
  · exact same
  · exact same.setHead (by simp)
  · exact (of_headReset h s).setHead (by simp)
  · exact same

theorem of_writeHeadEn (w : Word) (s : State) : FaultSignalled s (writeHeadEn w s) := by
  obtain ⟨order, n, -, e⟩ := writeHeadEn_spec s w
  rw [e]
  exact inTurn_induction (P := FaultSignalled s) (fun h t x => x.trans (of_setHeadEnable h _ t))
    (fun t x => x.trans (grantOrNot_moves t).signalled.faults) order _ ⟨fun _ h => h, fun _ => .inl⟩

end FaultSignalled

/-- What O59 says of FAULTn. -/
abbrev FaultRaised (s t : State) : Prop :=
  ∀ h, (t.head h).state = .fault → (s.head h).state = .fault ∨ t.irq.flags.getLsbD (12 + h.val) = true

theorem setHead_faultRaised {s : State} {h : HeadIx} {y : Head} (state : y.state = .fault → (s.head h).state = .fault) :
    FaultRaised s (s.setHead h y) := by
  intro k hk
  rw [head_setHead] at hk
  split at hk
  · subst_vars; exact .inl (state hk)
  · exact .inl hk

theorem ApartActs.faultRaised {s t : State} {c : Instr} (a : ApartActs s c t) : FaultRaised s t := by
  cases a with
  | powerOn =>
    intro h hf
    rw [show (State.head { State.reset with tin := s.tin, choices := s.choices, pending := s.pending } h) = Head.reset from
      Vector.getElem_replicate _] at hf
    cases hf
  | clear u p h hfault => exact setHead_faultRaised (s := s) (h := h) fun _ => hfault
  | apply u p h accepted => exact setHead_faultRaised (s := s) (h := h) id
  | headReset u p h => exact (FaultSignalled.of_headReset h s).fault
  | softReset u p =>
    intro h hf
    rw [show (State.head { Machine.softReset s with port := p } h) = (s.head h).afterReset from head_softReset s h] at hf
    simp only [Head.afterReset] at hf
    split at hf <;> cases hf
  | headEnable h p => exact (FaultSignalled.of_setHeadEnable h true s).fault
  | headDisable h p => exact (FaultSignalled.of_setHeadEnable h false s).fault
  | discard | queueRead | qThresh | irqFlags | port => exact fun _ => .inl

theorem exec_faultRaised {c : Instr} {s t : State} (e : exec c s = .next t) : FaultRaised s t :=
  exec_induction_moves (R := FaultRaised) (fun m => m.signalled.fault) (fun _ _ _ h => h) ApartActs.faultRaised
    (fun s w => (FaultSignalled.of_writeHeadEn w s).fault) e

/-- The rows that stand apart take no head out of its run into IDLE, but the resets of a head (R36, R161). -/
theorem ApartActs.doneRaised {s t : State} {c : Instr} (a : ApartActs s c t) (states : s.HeadStateLaw)
    (hreset : ∀ u : Byte, c ≠ .headReset u ∧ c ≠ .softReset u) {h : HeadIx}
    (hrun : (s.head h).state ∉ [.off, .idle, .fault]) (hidle : (t.head h).state = .idle) :
    t.irq.flags.getLsbD (8 + h.val) = true := by
  simp only [List.mem_cons, List.not_mem_nil, or_false, not_or] at hrun
  obtain ⟨hoff, hni, hnf⟩ := hrun
  cases a with
  | powerOn =>
    rw [show (State.head { State.reset with tin := s.tin, choices := s.choices, pending := s.pending } h) = Head.reset from
      Vector.getElem_replicate _] at hidle
    cases hidle
  | clear u p k hfault =>
    rw [show (State.head { s.setHead k { s.head k with state := .idle } with port := p } h)
      = (s.setHead k { s.head k with state := .idle }).head h from rfl, head_setHead] at hidle
    split at hidle
    · subst_vars; exact absurd hfault hnf
    · exact absurd hidle hni
  | apply u p k accepted =>
    rw [show (State.head { s.setHead k (s.head k).applyAccepted with port := p } h)
      = (s.setHead k (s.head k).applyAccepted).head h from rfl, head_setHead] at hidle
    split at hidle
    · subst_vars; exact absurd hidle hni
    · exact absurd hidle hni
  | headEnable k p =>
    have hon := (states h).1.2 hoff
    by_cases e : h = k
    · subst e
      rw [enableHead_on s h hon] at hidle
      exact absurd hidle hni
    · simp only [enableHead] at hidle
      split at hidle
      · exact absurd hidle hni
      · rw [show (State.head { s.modHead k _ with port := p } h) = (s.modHead k _).head h from rfl, modHead_eq_setHead,
          head_setHead_ne s e] at hidle
        exact absurd hidle hni
  | headDisable k p =>
    cases on : (s.head k).enabled with
    | false => rw [disableHead_off s k on] at hidle; exact absurd hidle hni
    | true =>
      change ((disableHead k s).head h).state = .idle at hidle
      by_cases e : h = k
      · subst e; rw [disableHead_head s h on] at hidle; cases hidle
      · rw [disableHead_head_ne s k e on, headReset_head_ne s k e] at hidle
        have hflag := ((headReset_moves s k).signalled.done h hidle).resolve_left hni
        have hirq : (disableHead k s).irq = (resetSlot k (teardown k s)).irq := by
          simp only [disableHead, on, if_true]; rfl
        show (disableHead k s).irq.flags.getLsbD _ = true
        rw [hirq]
        exact hflag
  | headReset u => exact absurd rfl (hreset u).1
  | softReset u => exact absurd rfl (hreset u).2
  | discard | queueRead | qThresh | irqFlags | port => exact absurd hidle hni

end Sys2Proof.Machine

/-! ## The statements -/

namespace Sys2Proof.Proofs

open Sys2Proof.Machine

/-- Settles O3: every row answers a next state, and no move and no row that stands apart touches the waiting commands. -/
theorem everyCommandCompletes : Obligations.EveryCommandCompletes := fun c s => by
  obtain ⟨t, e⟩ := exec_next c s
  exact ⟨t, e, exec_pending e⟩

/-- Settles O60, by what a run of moves appends and what the rows that stand apart leave. -/
theorem recordsAreAppendedAtTheTail : Obligations.RecordsAreAppendedAtTheTail := by
  intro c s t e hread hpower htake hword
  cases hc : c.standsApart with
  | false =>
    obtain ⟨⟨new, hnew⟩, -⟩ := (exec_moves hc e).queueGrows
    exact ⟨by rw [hnew], new, by rw [hnew]⟩
  | true =>
    have isRow : c.isRow = true := by
      cases c with
      | registerWrite w => exact absurd rfl (hword w).1
      | unlistedCommand w => exact absurd rfl (hword w).2
      | _ => rfl
    obtain ⟨hpos, hrecords⟩ := (exec_apart hc isRow e).records hread hpower htake
    exact ⟨hpos, [], by rw [hrecords, List.append_nil]⟩

/-- Settles O59, by the causes that a run of moves raises and, at the rows that stand apart, by R36. -/
theorem doneAndFaultAreRaised : Obligations.DoneAndFaultAreRaised := by
  intro c s t h states e
  refine ⟨fun hrun hidle hreset hword => ?_, fun hne hf => (exec_faultRaised e h hf).resolve_left hne⟩
  cases hc : c.standsApart with
  | false =>
    refine ((exec_moves hc e).signalled.done h hidle).resolve_left fun hi => hrun ?_
    rw [hi]; decide
  | true =>
    have isRow : c.isRow = true := by
      cases c with
      | registerWrite w => exact absurd rfl (hword w).1
      | unlistedCommand w => exact absurd rfl (hword w).2
      | _ => rfl
    exact (exec_apart hc isRow e).doneRaised states hreset hrun hidle

/-- Settles O52. -/
theorem stepKeepsQueueLinesAndClock : Obligations.StepKeepsQueueLinesAndClock := fun _ _ e =>
  step_induction (R := QueueLinesClock) (fun _ _ _ => exec_queueLinesClock)
    (fun _ hlt => ⟨id, id, fun ⟨_, _, hflags, henables⟩ => ⟨hlt, fun e => Bool.noConfusion e, hflags, henables⟩⟩)
    (fun _ _ _ _ h => h) e

/-- Settles O53: in a lawful state no disabled head has an APPLY pending, and with that fact the ring law is kept. -/
theorem stepKeepsTheRingLaw : Obligations.StepKeepsTheRingLaw := fun _ _ rings states e =>
  step_induction (R := fun s t => s.RingsKept → t.RingLaw) (fun _ _ _ => exec_ringLaw) (fun _ _ k => k.1)
    (fun _ _ _ _ h => h) e (.of_laws rings states)

end Sys2Proof.Proofs
end

section
/-! PROOFS. What each command comes to for the heads, the channels and the arbiter: the shared operation that its row names, or
nothing. The laws of these blocks are then proved operation by operation. -/

namespace Sys2Proof.Machine

/-- Two states with the same heads and channels, the same requests and the same active head. -/
structure SameBlocks (s t : State) : Prop where
  heads : t.heads = s.heads
  chans : t.chans = s.chans
  queue : t.arb.queue = s.arb.queue
  active : t.arb.port.head? = s.arb.port.head?

namespace SameBlocks

variable {s t u : State}

theorem refl (s : State) : SameBlocks s s := ⟨rfl, rfl, rfl, rfl⟩

theorem symm (e : SameBlocks s t) : SameBlocks t s := ⟨e.heads.symm, e.chans.symm, e.queue.symm, e.active.symm⟩

theorem trans (a : SameBlocks s t) (b : SameBlocks t u) : SameBlocks s u :=
  ⟨b.heads.trans a.heads, b.chans.trans a.chans, b.queue.trans a.queue, b.active.trans a.active⟩

theorem head (e : SameBlocks s t) (h : HeadIx) : t.head h = s.head h := by simp only [State.head, e.heads]

theorem chan (e : SameBlocks s t) (n : ChanIx) : t.chan n = s.chan n := by simp only [State.chan, e.chans]

theorem setHead (e : SameBlocks s t) (h : HeadIx) (y : Head) : SameBlocks (s.setHead h y) (t.setHead h y) :=
  ⟨by simp only [State.setHead, e.heads], e.chans, e.queue, e.active⟩

end SameBlocks

/-- What a command comes to for these blocks. -/
inductive Acts (s : State) : State → Prop
  | same : Acts s s
  | also {t u : State} (a : Acts s t) (e : SameBlocks t u) : Acts s u
  | start (h : HeadIx) (n : EntryIx) (idle : (s.head h).state = .idle) (accepted : validate (s.entry n) = none) :
      Acts s (s.setHead h { s.head h with
        state := .armed, ctx := Context.load n (s.entry n).prog, timers := HeadTimers.stopped })
  | stop (h : HeadIx) : Acts s (stopHead h s)
  | abort (h : HeadIx) : Acts s (abortHead h s)
  | clear (h : HeadIx) (fault : (s.head h).state = .fault) : Acts s (s.setHead h { s.head h with state := .idle })
  | reset (h : HeadIx) : Acts s (headReset h s)
  | ring (h : HeadIx) (r : HeadRing) : Acts s (s.setHead h { s.head h with ring := r })
  | drops (h : HeadIx) (n : Word) : Acts s (s.setHead h { s.head h with drops := n })
  | headEn (w : Word) : Acts s (writeHeadEn w s)
  | enable (h : HeadIx) (on : Bool) : Acts s (setHeadEnable h on s)
  | asserts (src : Source) (time : Stamp) (heads : List HeadIx) {u : State} (e : SameBlocks s u) :
      Acts s (deliverAssert src time heads u)
  | releases (n : LineIx) {u : State} (e : SameBlocks s u) : Acts s (deliverRelease n u)
  | delay (h : HeadIx) : Acts s (expireDelay h s)
  | ends (h : HeadIx) (overrun : Bool) (exposing : (s.head h).state = .exposing) : Acts s (endCondition h overrun s)
  | spacing (h : HeadIx) : Acts s (expireSpacing h s)
  | strobeWait (h : HeadIx) : Acts s (expireStrobeWait h s)
  | retry (h : HeadIx) (pacing : (s.head h).state = .pacing) : Acts s (enterPacing h s)
  | strobe (n : ChanIx) (enable low : Bool) : Acts s (setStrobe n enable low s)
  | strobeCfg (w : Word) : Acts s (writeStrobeCfg w s)
  | grant {u : State} (e : SameBlocks s u) : Acts s (tryGrant u)
  | complete (tag : Byte) (status : Status) (level : Word) : Acts s (takeComplete tag status level s)
  | timeout : Acts s (expireReadout s)
  | tick : Acts s (tickEnd s)
  | softReset : Acts s (softReset s)
  | powerOn : Acts s State.reset

namespace Acts

variable {s t u : State}

theorem of_same (e : SameBlocks s t) : Acts s t := .also .same e

theorem port (a : Acts s t) (p : HostPort) : Acts s { t with port := p } := .also a ⟨rfl, rfl, rfl, rfl⟩

theorem of_next (a : Acts s u) (e : (.next u : Host.Outcome State Fault Refusal) = .next t) : Acts s t :=
  Host.Outcome.next.inj e ▸ a

theorem ite {c : Prop} [Decidable c] (a : Acts s t) (b : Acts s u) : Acts s (if c then t else u) := by
  split
  · exact a
  · exact b

theorem of_onHead {act : HeadIx → State → Verdict × State} (a : ∀ h, Acts s (act h s).2) : Acts s (onHead act s).2 := by
  simp only [onHead]
  split
  · exact a _
  · exact .same

theorem of_commandWord {act : State → Verdict × State} (a : Acts s (act s).2) (c : CmdName) (u : Byte) :
    Acts s (commandWord c act u s) := a.port _

theorem of_cmdStart (s : State) : Acts s (cmdStart s).2 := by
  simp only [cmdStart]
  repeat' split
  · exact .same
  · exact .same
  · exact .same
  · exact .start _ _ ‹_› ‹_›
  · exact .same

theorem of_cmdClear (s : State) : Acts s (cmdClear s).2 := by
  obtain e | ⟨h, hf, e⟩ := cmdClear_cases s <;> rw [e]
  · exact .same
  · exact .clear h hf

theorem of_cmdApply (s : State) : Acts s (cmdApply s).2 := by
  obtain e | ⟨h, -, e⟩ := cmdApply_cases s <;> rw [e]
  · exact .same
  · exact .ring h _

theorem of_ringWrite (w : Word) (s : State) : Acts s (ringWrite w s) := by
  simp only [ringWrite]
  split
  · exact .port .same _
  · exact .port (.ring _ _) _

/-- A qualified line's event is delivered from a state with the line's new value. -/
theorem of_qualifyLine (e : SameBlocks s u) (n : LineIx) (high : Bool) : Acts s (qualifyLine n high u) := by
  have blocks (l : Line) : SameBlocks s (u.setLine n l) := e.trans ⟨rfl, rfl, rfl, rfl⟩
  exact .ite (.asserts _ _ _ (blocks _)) (.releases n (blocks _))

theorem of_sampleLine (n : LineIx) (high : Bool) (s : State) : Acts s (sampleLine n high s) := by
  simp only [sampleLine]
  repeat' split
  · exact .same
  · exact .of_same ⟨rfl, rfl, rfl, rfl⟩
  · exact .of_same ⟨rfl, rfl, rfl, rfl⟩
  · refine of_qualifyLine ?_ n _
    exact ⟨rfl, rfl, rfl, rfl⟩
  · exact .of_same ⟨rfl, rfl, rfl, rfl⟩

theorem of_expireFilter (n : LineIx) (s : State) : Acts s (expireFilter n s) := by
  simp only [expireFilter]
  repeat' split
  · refine of_qualifyLine ?_ n _
    exact ⟨rfl, rfl, rfl, rfl⟩
  all_goals exact .same

theorem of_releaseIfActive (e : SameBlocks s u) (n : LineIx) (l : Line) : Acts s (releaseIfActive n l u) := by
  simp only [releaseIfActive]
  repeat' split
  · exact .releases n e
  all_goals exact .of_same e

theorem of_writeLineCfg (n : LineIx) (enable low : Bool) (f : Byte) (s : State) :
    Acts s (writeLineCfg n enable low f s) := by
  simp only [writeLineCfg]
  repeat' split
  · exact .of_same ⟨rfl, rfl, rfl, rfl⟩
  · exact .of_same ⟨rfl, rfl, rfl, rfl⟩
  · refine of_releaseIfActive ?_ n _
    exact ⟨rfl, rfl, rfl, rfl⟩
  · exact .of_same ⟨rfl, rfl, rfl, rfl⟩
  · refine of_releaseIfActive ?_ n _
    exact ⟨rfl, rfl, rfl, rfl⟩

theorem of_expirePeriod (g : RateIx) (s : State) : Acts s (expirePeriod g s) := by
  simp only [expirePeriod]
  repeat' split
  · exact .of_same ⟨rfl, rfl, rfl, rfl⟩
  · exact .asserts _ _ _ ⟨rfl, rfl, rfl, rfl⟩
  all_goals exact .same

theorem of_writeLinkCfg (on : Bool) (s : State) : Acts s (writeLinkCfg on s) :=
  .ite (.grant ⟨rfl, rfl, rfl, rfl⟩) (.of_same ⟨rfl, rfl, rfl, rfl⟩)

theorem of_receiveFrame (f : RxFrame) (s : State) : Acts s (receiveFrame f s) := by
  simp only [receiveFrame]
  repeat' split
  · exact .same
  · exact .complete _ _ _
  · exact .of_same ⟨rfl, rfl, rfl, rfl⟩

theorem of_writeDivider (w : Word) (s : State) : Acts s (writeDivider w s) :=
  .ite (.of_same ⟨rfl, rfl, rfl, rfl⟩) (.of_same ⟨rfl, rfl, rfl, rfl⟩)

theorem of_integrationExpiry (h : HeadIx) (s : State) :
    Acts s (if (s.head h).integrationDue then endCondition h false s else s) := by
  split
  · rename_i due
    simp only [Head.integrationDue, Bool.and_eq_true, decide_eq_true_eq] at due
    exact .ends h false due.1
  · exact .same

theorem of_widthLimitExpiry (h : HeadIx) (s : State) :
    Acts s (if (s.head h).widthLimitDue then endCondition h true s else s) := by
  split
  · rename_i due
    simp only [Head.widthLimitDue, Bool.and_eq_true, decide_eq_true_eq] at due
    exact .ends h true due.1
  · exact .same

theorem of_overdueTickAttempt (h : HeadIx) (s : State) :
    Acts s (if (s.head h).retryDue then enterPacing h s else s) := by
  split
  · rename_i due
    simp only [Head.retryDue, Bool.and_eq_true, decide_eq_true_eq] at due
    exact .retry h due.1
  · exact .same

theorem of_row {c : Instr} (isRow : c.isRow = true) (e : exec c s = .next t) : Acts s t := by
  have same (q : SameBlocks s t) : Acts s t := .of_same q
  cases c with
  | registerWrite | unlistedCommand => cases isRow
  | powerOnReset =>
    refine of_next ?_ e
    exact .also .powerOn ⟨rfl, rfl, rfl, rfl⟩
  | deselect cut =>
    have captured : Acts s (if cutsTbLo s cut then captureHigh s else s) :=
      .ite (.of_same ⟨rfl, rfl, rfl, rfl⟩) .same
    exact (captured.port _).of_next e
  | start u => exact (of_commandWord (of_cmdStart s) _ u).of_next e
  | stop u => exact (of_commandWord (of_onHead fun h => .stop h) _ u).of_next e
  | abort u => exact (of_commandWord (of_onHead fun h => .abort h) _ u).of_next e
  | clear u => exact (of_commandWord (of_cmdClear s) _ u).of_next e
  | headReset u => exact (of_commandWord (of_onHead fun h => .reset h) _ u).of_next e
  | softTrigger u => exact (of_commandWord (act := cmdSoftTrigger) (.asserts _ _ _ (.refl s)) _ u).of_next e
  | apply u => exact (of_commandWord (of_cmdApply s) _ u).of_next e
  | mark u =>
    exact (of_commandWord (act := cmdMark) (by
      simp only [cmdMark]; split
      · exact .of_same ⟨rfl, rfl, rfl, rfl⟩
      · exact .same) _ u).of_next e
  | programWrite u =>
    exact (of_commandWord (act := cmdProgramWrite) (by
      simp only [cmdProgramWrite]; split
      · exact .of_same ⟨rfl, rfl, rfl, rfl⟩
      · exact .same) _ u).of_next e
  | programRead u =>
    exact (of_commandWord (act := cmdProgramRead) (by
      simp only [cmdProgramRead]; split
      · exact .of_same ⟨rfl, rfl, rfl, rfl⟩
      · exact .same) _ u).of_next e
  | programClear u =>
    exact (of_commandWord (act := cmdProgramClear) (by
      simp only [cmdProgramClear]; split
      · exact .of_same ⟨rfl, rfl, rfl, rfl⟩
      · exact .same) _ u).of_next e
  | softReset u => exact (of_commandWord (act := cmdSoftReset) .softReset _ u).of_next e
  | ringDataWrite w => exact ((of_ringWrite w s).port _).of_next e
  | headDropClear h => exact ((Acts.drops h 0).port _).of_next e
  | headEnable h => exact ((Acts.enable h true).port _).of_next e
  | headDisable h => exact ((Acts.enable h false).port _).of_next e
  | lineEnable n low f => exact ((of_writeLineCfg n true low f s).port _).of_next e
  | lineDisable n low f => exact ((of_writeLineCfg n false low f s).port _).of_next e
  | lineReconfigure n low f => exact ((of_writeLineCfg n _ low f s).port _).of_next e
  | lineLevelChange n high => exact (of_sampleLine n high s).of_next e
  | filterExpiry n => exact (of_expireFilter n s).of_next e
  | ratePeriodExpiry g => exact (of_expirePeriod g s).of_next e
  | delayExpiry h => exact (Acts.delay h).of_next e
  | integrationExpiry h => exact (of_integrationExpiry h s).of_next e
  | widthLimitExpiry h => exact (of_widthLimitExpiry h s).of_next e
  | spacingExpiry h => exact (Acts.spacing h).of_next e
  | strobeWaitExpiry h => exact (Acts.strobeWait h).of_next e
  | overdueTickAttempt h => exact (of_overdueTickAttempt h s).of_next e
  | strobeEnable n => exact ((Acts.strobe n true _).port _).of_next e
  | strobeDisable n => exact ((Acts.strobe n false _).port _).of_next e
  | strobePolarity n low => exact ((Acts.strobe n _ low).port _).of_next e
  | linkEnable => exact ((of_writeLinkCfg true s).port _).of_next e
  | grant => exact (Acts.grant (.refl s)).of_next e
  | complete tag status level => exact of_next (.ite .same (.complete tag status level)) e
  | linkError f => exact (of_receiveFrame f s).of_next e
  | shortFrame =>
    refine of_next ?_ e
    exact .ite .same (.of_same ⟨rfl, rfl, rfl, rfl⟩)
  | readoutTimeout => exact Acts.timeout.of_next e
  | tbDivWrite w => exact ((of_writeDivider w s).port _).of_next e
  | tick => exact Acts.tick.of_next e
  | addressByte | discard | tbLoad | ringDataRead | rateEnable | rateDisable | rateDecimation | ratePeriodWrite
  | linkDisable | frameSent | linkCntClear | queueRead | qThreshWrite | tbLoRead | irqFlagsClear | byteTimeIdle
  | irqEnWrite | irqPolarity =>
    obtain rfl := Host.Outcome.next.inj e
    exact same ⟨rfl, rfl, rfl, rfl⟩

theorem of_exec {c : Instr} (e : exec c s = .next t) : Acts s t :=
  exec_induction (R := Acts) (fun _ _ _ => of_row) (fun _ _ p a => a.port p)
    (fun _ _ _ => .of_same ⟨rfl, rfl, rfl, rfl⟩) (fun _ w => .headEn w) (fun _ w => .strobeCfg w) e

end Acts

/-- A relation between states that sees these blocks alone holds of every step when it holds of every act. -/
theorem step_acts {R : State → State → Prop} (acts : ∀ {s t}, Acts s t → R s t)
    (blocks : ∀ {s s' t}, SameBlocks s' s → R s' t → R s t) {s t : State} (e : step s = .next t) : R s t :=
  step_induction (R := R) (fun _ _ _ e => acts (.of_exec e)) (fun _ _ => acts (.of_same ⟨rfl, rfl, rfl, rfl⟩))
    (fun _ _ _ _ => blocks ⟨rfl, rfl, rfl, rfl⟩) e

end Sys2Proof.Machine
end

section
/-! PROOFS. The law of the strobe channels. An operation takes a head away from its channel, lets it go on, and gives it back
to a channel or to none; in between the law holds of all but the heads that stand apart. -/

namespace Sys2Proof.Machine

/-! ## The law with some heads apart -/

/-- What a channel's value has to keep, with the heads as they are (R97, R98, R101). -/
abbrev State.Serves (s : State) (n : ChanIx) (c : Channel) : Prop :=
  (c.enabled = false → c.holder = none) ∧ (c.holder = none → c.waiters = [])
  ∧ (∀ h ∈ c.holder, (s.head h).state.exposes = true ∧ (s.head h).ctx.prog.channel = some n)
  ∧ c.waiters.Nodup
  ∧ ∀ w ∈ c.waiters, (s.head w).state = .strobeWait ∧ (s.head w).ctx.prog.channel = some n

/-- What a head has to keep, with the channels as they are (R40, R101). -/
abbrev State.Awaits (s : State) (h : HeadIx) : Prop :=
  ((s.head h).state = .strobeWait → ∃ n : ChanIx, (s.head h).ctx.prog.channel = some n ∧ h ∈ (s.chan n).waiters)
  ∧ ((s.head h).ctx.pendingStart.isSome = true ↔ (s.head h).state = .delay ∨ (s.head h).state = .strobeWait)

/-- The strobe law of all but the heads of L, which stand at no channel. -/
structure State.ApartFrom (s : State) (L : List HeadIx) : Prop where
  serves : ∀ n, s.Serves n (s.chan n)
  apart : ∀ h ∈ L, ∀ n, (s.chan n).holder ≠ some h ∧ h ∉ (s.chan n).waiters
  awaits : ∀ h, h ∉ L → s.Awaits h

variable {s t : State} {h w : HeadIx} {n : ChanIx} {L : List HeadIx}

theorem State.strobeLaw_iff : s.StrobeLaw ↔ s.ApartFrom [] := by
  refine ⟨fun ⟨hchan, hwait, hpending⟩ => ⟨hchan, fun _ e => (List.not_mem_nil e).elim, fun h _ => ⟨hwait h, hpending h⟩⟩,
    fun ⟨hchan, _, hawait⟩ => ⟨hchan, fun h => (hawait h List.not_mem_nil).1, fun h => (hawait h List.not_mem_nil).2⟩⟩

theorem startExposure_setChan (h : HeadIx) (locked : Bool) (s : State) (n : ChanIx) (c : Channel) :
    startExposure h locked (s.setChan n c) = (startExposure h locked s).setChan n c := by
  simp only [startExposure, head_setChan]
  split <;> rfl

theorem startExposure_head_ne (s : State) {k : HeadIx} (hk : k ≠ h) (locked : Bool) :
    (startExposure h locked s).head k = s.head k := by
  obtain ⟨_, e⟩ := startExposure_frame s h locked
  rw [e, head_setHead_ne s hk]

namespace State.ApartFrom

/-- Which heads stand apart matters, not their order. -/
theorem congr (a : s.ApartFrom L) {L' : List HeadIx} (e : ∀ h, h ∈ L' ↔ h ∈ L) : s.ApartFrom L' :=
  ⟨a.serves, fun h hh => a.apart h ((e h).1 hh), fun h hh => a.awaits h (mt (e h).2 hh)⟩

/-- The law sees a head's state, its program's channel and whether a start is pending. -/
theorem of_same (a : s.ApartFrom L) (chans : t.chans = s.chans)
    (heads : ∀ h, (t.head h).state = (s.head h).state ∧ (t.head h).ctx.prog.channel = (s.head h).ctx.prog.channel
      ∧ (t.head h).ctx.pendingStart.isSome = (s.head h).ctx.pendingStart.isSome) : t.ApartFrom L := by
  have hc (n : ChanIx) : t.chan n = s.chan n := by simp only [State.chan, chans]
  refine ⟨fun n => ?_, fun h hh n => hc n ▸ a.apart h hh n, fun h hh => ?_⟩
  · obtain ⟨henabled, hempty, hholder, hnodup, hwaiters⟩ := a.serves n
    rw [hc]
    refine ⟨henabled, hempty, fun h e => ?_, hnodup, fun w e => ?_⟩
    · rw [(heads h).1, (heads h).2.1]; exact hholder h e
    · rw [(heads w).1, (heads w).2.1]; exact hwaiters w e
  · obtain ⟨hstate, hprog, hpending⟩ := heads h
    simp only [Awaits, hstate, hprog, hpending, hc]
    exact a.awaits h hh

theorem of_blocks (a : s.ApartFrom L) (e : SameBlocks s t) : t.ApartFrom L :=
  a.of_same e.chans fun h => by rw [e.head]; exact ⟨rfl, rfl, rfl⟩

/-- A head that stands apart may change as it will. -/
theorem setHead (a : s.ApartFrom L) (hh : h ∈ L) (y : Head) : (s.setHead h y).ApartFrom L := by
  have other {k : HeadIx} (hk : k ≠ h) : (s.setHead h y).head k = s.head k := head_setHead_ne s hk y
  refine ⟨fun n => ?_, a.apart, fun k hk => ?_⟩
  · obtain ⟨henabled, hempty, hholder, hnodup, hwaiters⟩ := a.serves n
    obtain ⟨hnot, hnotIn⟩ := a.apart h hh n
    refine ⟨henabled, hempty, fun k e => ?_, hnodup, fun k e => ?_⟩
    · rw [other (fun ek => hnot (ek ▸ e))]; exact hholder k e
    · rw [other (fun ek => hnotIn (ek ▸ e))]; exact hwaiters k e
  · have hne : k ≠ h := fun e => hk (e ▸ hh)
    rw [Awaits, other hne]
    exact a.awaits k hk

/-- A head that waits at no channel and has a start pending exactly in DELAY stands with the others. -/
theorem rejoin (a : s.ApartFrom (h :: L)) (notWaiting : (s.head h).state ≠ .strobeWait)
    (pending : (s.head h).ctx.pendingStart.isSome = true ↔ (s.head h).state = .delay) : s.ApartFrom L := by
  refine ⟨a.serves, fun k hk => a.apart k (List.mem_cons_of_mem h hk), fun k hk => ?_⟩
  by_cases e : k = h
  · subst e
    exact ⟨fun e => absurd e notWaiting, pending.trans ⟨.inl, fun e => e.resolve_right notWaiting⟩⟩
  · exact a.awaits k (fun hm => (List.mem_cons.1 hm).elim e hk)

/-- A head that goes on into a state with no start pending stands with the others. -/
theorem setHead_rejoin (a : s.ApartFrom (h :: L)) {y : Head} (notWaiting : y.state ≠ .strobeWait)
    (notDelay : y.state ≠ .delay) (pending : y.ctx.pendingStart = none) : (s.setHead h y).ApartFrom L := by
  refine (a.setHead (List.mem_cons_self ..) y).rejoin ?_ ?_ <;> rw [head_setHead_self]
  · exact notWaiting
  · rw [pending]; exact ⟨fun e => Bool.noConfusion e, fun e => absurd e notDelay⟩

/-- The values of channel n with its neighbours untouched. -/
theorem serves_setChan (a : s.ApartFrom L) {c : Channel} (own : s.Serves n c) (m : ChanIx) :
    (s.setChan n c).Serves m ((s.setChan n c).chan m) := by
  rw [chan_setChan]
  split
  · subst_vars; exact own
  · exact a.serves m

/-- Heads other than h wait where they waited, when channel n keeps its waiters but for h. -/
theorem awaits_setChan (a : s.ApartFrom (h :: L)) {c : Channel} (kept : ∀ k, k ≠ h → k ∈ (s.chan n).waiters → k ∈ c.waiters)
    {k : HeadIx} (hk : k ∉ L) (hne : k ≠ h) : (s.setChan n c).Awaits k := by
  obtain ⟨hwait, hpending⟩ := a.awaits k (fun hm => (List.mem_cons.1 hm).elim hne hk)
  refine ⟨fun e => ?_, hpending⟩
  obtain ⟨m, hm, hmem⟩ := hwait e
  refine ⟨m, hm, ?_⟩
  rw [chan_setChan]
  split
  · subst_vars; exact kept k hne hmem
  · exact hmem

/-- A head apart that exposes under channel n, which is FREE, becomes its holder. -/
theorem hold (a : s.ApartFrom (h :: L)) (hL : h ∉ L) (free : (s.chan n).holder = none)
    (on : (s.chan n).enabled = true) (exposes : (s.head h).state.exposes = true)
    (names : (s.head h).ctx.prog.channel = some n) (pending : (s.head h).ctx.pendingStart = none) :
    (s.setChan n { s.chan n with holder := some h }).ApartFrom L := by
  have hempty : (s.chan n).waiters = [] := (a.serves n).2.1 free
  have notWaiting : (s.head h).state ≠ .strobeWait := fun e => by rw [e] at exposes; cases exposes
  have notDelay : (s.head h).state ≠ .delay := fun e => by rw [e] at exposes; cases exposes
  refine ⟨a.serves_setChan ⟨fun e => ?_, fun e => ?_, fun k e => ?_, ?_, ?_⟩, fun k hk m => ?_, fun k hk => ?_⟩
  · rw [on] at e; cases e
  · cases e
  · obtain rfl := Option.some.inj e; exact ⟨exposes, names⟩
  · exact hempty ▸ List.nodup_nil
  · intro w hw; rw [hempty] at hw; cases hw
  · rw [chan_setChan]
    split
    · exact ⟨fun e => hL (Option.some.inj e ▸ hk), hempty ▸ List.not_mem_nil⟩
    · exact a.apart k (List.mem_cons_of_mem h hk) m
  · by_cases e : k = h
    · subst e
      refine ⟨fun e => absurd e notWaiting, ?_⟩
      show ((s.head k).ctx.pendingStart).isSome = true ↔ _
      rw [pending]
      exact ⟨fun e => Bool.noConfusion e, fun e => e.elim (absurd · notDelay) (absurd · notWaiting)⟩
    · refine a.awaits_setChan ?_ hk e
      exact fun _ _ hm => hm

/-- A head apart that waits under channel n, which is HELD, joins its waiters. -/
theorem wait (a : s.ApartFrom (h :: L)) (hL : h ∉ L) (held : (s.chan n).holder ≠ none)
    (waits : (s.head h).state = .strobeWait) (names : (s.head h).ctx.prog.channel = some n)
    (pending : (s.head h).ctx.pendingStart.isSome = true) :
    (s.setChan n { s.chan n with waiters := (s.chan n).waiters ++ [h] }).ApartFrom L := by
  obtain ⟨henabled, -, hholder, hnodup, hwaiters⟩ := a.serves n
  obtain ⟨-, hnotIn⟩ := a.apart h (List.mem_cons_self ..) n
  refine ⟨a.serves_setChan ⟨henabled, fun e => absurd e held, hholder, ?_, fun w hw => ?_⟩, fun k hk m => ?_, fun k hk => ?_⟩
  · refine List.nodup_append.2 ⟨hnodup, List.nodup_singleton h, fun x hx y hy => ?_⟩
    rw [List.mem_singleton.1 hy]
    exact fun e => hnotIn (e ▸ hx)
  · rcases List.mem_append.1 hw with hw | hw
    · exact hwaiters w hw
    · rw [List.mem_singleton.1 hw]; exact ⟨waits, names⟩
  · have other := a.apart k (List.mem_cons_of_mem h hk) m
    rw [chan_setChan]
    split
    · subst_vars
      refine ⟨other.1, fun hm => (List.mem_append.1 hm).elim other.2 fun e => hL ?_⟩
      exact List.mem_singleton.1 e ▸ hk
    · exact other
  · by_cases e : k = h
    · subst e
      refine ⟨fun _ => ⟨n, names, ?_⟩, ⟨fun _ => .inr waits, fun _ => pending⟩⟩
      rw [chan_setChan_self]
      exact List.mem_append_right _ (List.mem_singleton.2 rfl)
    · exact a.awaits_setChan (fun _ _ hm => List.mem_append_left _ hm) hk e

/-- A channel's holder and waiters stand apart when the channel lets them go, FREE or DISABLED. -/
theorem letGo (law : s.ApartFrom []) (n : ChanIx) (on : Bool) :
    (s.setChan n { s.chan n with enabled := on, holder := none, waiters := [] }).ApartFrom
      ((s.chan n).holder.toList ++ (s.chan n).waiters) := by
  obtain ⟨-, -, hholder, -, hwaiters⟩ := law.serves n
  have member {k : HeadIx} (hk : k ∈ (s.chan n).holder.toList ++ (s.chan n).waiters) :
      (s.head k).ctx.prog.channel = some n := by
    rcases List.mem_append.1 hk with hk | hk
    · exact (hholder k (Option.mem_toList.1 hk)).2
    · exact (hwaiters k hk).2
  refine ⟨law.serves_setChan ⟨fun _ => rfl, fun _ => rfl, fun _ e => (by cases e), List.nodup_nil,
    fun _ e => (by cases e)⟩, fun k hk m => ?_, fun k hk => ?_⟩
  · rw [chan_setChan]
    split
    · exact ⟨fun e => (by cases e), List.not_mem_nil⟩
    · rename_i hm
      obtain ⟨-, -, hholder', -, hwaiters'⟩ := law.serves m
      have elsewhere (e : (s.head k).ctx.prog.channel = some m) : False :=
        hm (Option.some.inj (e.symm.trans (member hk)))
      exact ⟨fun e => elsewhere (hholder' k e).2, fun e => elsewhere (hwaiters' k e).2⟩
  · obtain ⟨hwait, hpending⟩ := law.awaits k List.not_mem_nil
    refine ⟨fun e => ?_, hpending⟩
    obtain ⟨m, hm, hmem⟩ := hwait e
    refine ⟨m, hm, ?_⟩
    rw [chan_setChan]
    split
    · subst_vars; exact absurd (List.mem_append_right _ hmem) hk
    · exact hmem

/-- A head that holds no channel stands apart when it has left its waiter list. -/
theorem leave (a : s.ApartFrom L) (holds : ∀ n, (s.chan n).holder ≠ some h) :
    (leaveWaiters h s).ApartFrom (h :: L) := by
  refine ⟨fun n => ?_, fun k hk n => ?_, fun k hk => ?_⟩
  · obtain ⟨henabled, hempty, hholder, hnodup, hwaiters⟩ := a.serves n
    rw [chan_leaveWaiters]
    refine ⟨henabled, fun e => ?_, hholder, hnodup.filter _, fun w hw => hwaiters w (List.mem_filter.1 hw).1⟩
    simp only [hempty e, List.filter_nil]
  · rw [chan_leaveWaiters]
    rcases List.mem_cons.1 hk with rfl | hk
    · exact ⟨holds n, fun hm => by simpa using (List.mem_filter.1 hm).2⟩
    · exact ⟨(a.apart k hk n).1, fun hm => (a.apart k hk n).2 (List.mem_filter.1 hm).1⟩
  · obtain ⟨hne, hk⟩ := not_or.1 (mt List.mem_cons.2 hk)
    obtain ⟨hwait, hpending⟩ := a.awaits k hk
    refine ⟨fun e => ?_, hpending⟩
    obtain ⟨m, hm, hmem⟩ := hwait e
    refine ⟨m, hm, ?_⟩
    rw [chan_leaveWaiters]
    exact List.mem_filter.2 ⟨hmem, decide_eq_true hne⟩

/-- A head that neither exposes nor waits for a channel stands apart as it is. -/
theorem aside (law : s.ApartFrom []) (notExposes : (s.head h).state.exposes = false)
    (notWaiting : (s.head h).state ≠ .strobeWait) : s.ApartFrom [h] := by
  refine ⟨law.serves, fun k hk n => ?_, fun k _ => law.awaits k List.not_mem_nil⟩
  rw [List.mem_singleton.1 hk]
  obtain ⟨-, -, hholder, -, hwaiters⟩ := law.serves n
  refine ⟨fun e => ?_, fun e => notWaiting (hwaiters h e).1⟩
  rw [(hholder h e).1] at notExposes
  cases notExposes

/-! ## Exposure starts and attempts -/

/-- A head apart with a start pending exposes, and stands with the others without a channel. -/
theorem startExposure (a : s.ApartFrom (h :: L)) {p : PendingStart} (pending : (s.head h).ctx.pendingStart = some p)
    (locked : Bool) : (Machine.startExposure h locked s).ApartFrom L := by
  rw [startExposure_some s h pending]
  exact a.setHead_rejoin (by simp) (by simp) (by simp)

/-- A head apart with a start pending exposes as the holder of its channel, which is FREE. -/
theorem startLocked (a : s.ApartFrom (h :: L)) (hL : h ∉ L) {p : PendingStart}
    (pending : (s.head h).ctx.pendingStart = some p) (free : (s.chan n).holder = none) (on : (s.chan n).enabled = true)
    (names : (s.head h).ctx.prog.channel = some n) :
    (Machine.startExposure h true (s.setChan n { s.chan n with holder := some h })).ApartFrom L := by
  rw [startExposure_some _ h (by rw [head_setChan]; exact pending)]
  exact (a.setHead (List.mem_cons_self ..) ((s.head h).startExposure s.now p true)).hold hL free on
    (by rw [head_setHead_self]; rfl) (by rw [head_setHead_self, Head.startExposure_prog]; exact names)
    (by rw [head_setHead_self]; rfl)

/-- A start attempt of a head apart ends with the head exposing, or waiting at its channel (Table 6.2). -/
theorem attempt (a : s.ApartFrom [h]) {p : PendingStart} (pending : (s.head h).ctx.pendingStart = some p) :
    (attemptStart h s).ApartFrom [] := by
  simp only [attemptStart]
  split
  · exact a.startExposure pending false
  · rename_i n names
    simp only [claim]
    split
    · exact a.startExposure pending false
    rename_i enabled
    simp only [Bool.not_eq_true', Bool.not_eq_false] at enabled
    split
    · rename_i free
      exact a.startLocked List.not_mem_nil pending free enabled names
    · rename_i k held
      split
      · exact a.startExposure pending false
      · simp only [modHead_eq_setHead, head_setChan]
        refine (a.setHead (List.mem_cons_self ..) _).wait List.not_mem_nil ?_ ?_ ?_ ?_
        · exact held ▸ Option.some_ne_none k
        · rw [head_setHead_self]
        · rw [head_setHead_self]; exact names
        · rw [head_setHead_self]; exact Option.isSome_iff_exists.2 ⟨p, pending⟩

theorem paced (a : s.ApartFrom [h]) (n : Word) (time : Stamp) : (pacedAttempt h n time s).ApartFrom [] :=
  (a.setHead (List.mem_cons_self ..) _).attempt (p := ⟨.paced, time, n⟩) (by rw [head_setHead_self])

theorem pacing (a : s.ApartFrom [h]) (pending : (s.head h).ctx.pendingStart = none) :
    (enterPacing h s).ApartFrom [] := by
  simp only [enterPacing]
  split
  · exact (a.setHead (List.mem_cons_self ..) _).paced _ _
  all_goals exact a.setHead_rejoin (by simp) (by simp) pending

theorem accept (a : s.ApartFrom [h]) (p : PendingStart) (src : Source) : (acceptStart h p src s).ApartFrom [] := by
  simp only [acceptStart]
  split
  · exact (a.setHead (List.mem_cons_self ..) _).attempt (p := p) (by rw [head_setHead_self])
  · refine ((a.setHead (List.mem_cons_self ..) _).setHead (List.mem_cons_self ..) _).rejoin ?_ ?_ <;>
      simp

/-! ## Records, burst ends and releases -/

theorem offer (a : s.ApartFrom L) (k : HeadIx) (body : Body) : (Machine.offer k body s).ApartFrom L := by
  refine a.of_same ?_ fun i => ?_
  · obtain ⟨_, _, _, e⟩ := offer_frame s k body; rw [e]; rfl
  · by_cases e : i = k
    · obtain ⟨_, _, hoffer⟩ := offer_head_frame s k body; rw [e, hoffer]; exact ⟨rfl, rfl, rfl⟩
    · rw [offer_head_ne s k e]; exact ⟨rfl, rfl, rfl⟩

/-- A head may change in all that the law does not see. -/
theorem setHead_same (a : s.ApartFrom L) {k : HeadIx} {y : Head} (state : y.state = (s.head k).state)
    (channel : y.ctx.prog.channel = (s.head k).ctx.prog.channel)
    (pending : y.ctx.pendingStart.isSome = (s.head k).ctx.pendingStart.isSome) : (s.setHead k y).ApartFrom L := by
  refine a.of_same rfl fun i => ?_
  rw [head_setHead]
  split
  · subst_vars; exact ⟨state, channel, pending⟩
  · exact ⟨rfl, rfl, rfl⟩

theorem raise (a : s.ApartFrom L) (bit : Word) : (s.raise bit).ApartFrom L := a.of_same rfl fun _ => ⟨rfl, rfl, rfl⟩

theorem drop (a : s.ApartFrom L) (k : HeadIx) (r : DropReason) (src : Option Source) (time : Stamp) :
    (dropTrigger k r src time s).ApartFrom L := by
  have drops : (s.modHead k fun hd => { hd with drops := satInc hd.drops }).ApartFrom L :=
    a.setHead_same rfl rfl rfl
  have counted := drops.raise dropBit
  simp only [dropTrigger]
  split
  · exact counted.offer k _
  · exact counted

theorem drain (a : s.ApartFrom (h :: L)) : (enterDraining h s).ApartFrom L := by
  have drained : (s.modHead h fun hd => { hd with
      state := if hd.slot = .empty then .idle else .draining
      ctx := { hd.ctx with pendingStart := none, startLine := none, spacing := .stopped, latch := none,
                           stopPending := false }
      timers := HeadTimers.stopped
      ring := hd.ring.commitPending }).ApartFrom L := by
    refine a.setHead_rejoin ?_ ?_ rfl <;> dsimp only <;> split <;> exact fun e => by cases e
  simp only [enterDraining]
  split
  · exact drained.raise _
  · exact drained

theorem chain (a : s.ApartFrom [h]) (n : EntryIx) : (chainTo h n s).ApartFrom [] := by
  simp only [chainTo]
  split
  · exact (a.offer h _).drain
  · refine (a.setHead_rejoin ?_ ?_ rfl).offer h _ <;> dsimp only <;> cases (s.entry n).prog.overlap <;>
      exact fun e => by cases e

theorem decide (a : s.ApartFrom [h]) (pending : (s.head h).ctx.pendingStart = none) :
    (decideBurst h s).ApartFrom [] := by
  simp only [decideBurst]
  split
  · exact (a.offer h _).drain
  split
  · split
    · exact a.chain _
    · exact (a.offer h _).drain
  split
  · exact a.setHead_rejoin (by simp) (by simp) pending
  · exact a.setHead_rejoin (by simp) (by simp) pending
  · exact a.pacing pending

/-! ## Releases, exposure ends, teardown -/

/-- Heads apart that wait under channel n, which is HELD, join its waiters in their order. -/
theorem waitAll {ws : List HeadIx} (a : s.ApartFrom (ws ++ L)) (distinct : (ws ++ L).Nodup)
    (held : (s.chan n).holder ≠ none)
    (waits : ∀ w ∈ ws, (s.head w).state = .strobeWait ∧ (s.head w).ctx.prog.channel = some n
      ∧ (s.head w).ctx.pendingStart.isSome = true) :
    (s.setChan n { s.chan n with waiters := (s.chan n).waiters ++ ws }).ApartFrom L := by
  induction ws generalizing s with
  | nil =>
    rw [List.append_nil, setChan_chan]
    exact a
  | cons w ws ih =>
    obtain ⟨hnot, hdistinct⟩ := List.nodup_cons.1 distinct
    obtain ⟨hstate, hnames, hpending⟩ := waits w (List.mem_cons_self ..)
    have joined := ih (s := s.setChan n { s.chan n with waiters := (s.chan n).waiters ++ [w] })
      (a.wait hnot held hstate hnames hpending) hdistinct (by rw [chan_setChan_self]; exact held)
      (fun k hk => waits k (List.mem_cons_of_mem w hk))
    simpa only [chan_setChan_self, setChan_setChan, List.append_assoc, List.singleton_append] using joined

/-- A release at a channel hands it to its oldest waiter; the holder that was stands apart (R103, R104). -/
theorem releaseAt (law : s.ApartFrom []) (holder : (s.chan n).holder = some h) :
    (Machine.releaseAt n s).ApartFrom [h] := by
  obtain ⟨henabled, -, hholder, hnodup, hwaiters⟩ := law.serves n
  have on : (s.chan n).enabled = true := by
    cases e : (s.chan n).enabled with
    | true => rfl
    | false => rw [henabled e] at holder; cases holder
  have gone := law.letGo n true
  rw [holder] at gone
  simp only [Machine.releaseAt]
  split
  · rename_i w ws e
    rw [e] at gone
    obtain ⟨hwstate, hwnames⟩ := hwaiters w (e ▸ List.mem_cons_self ..)
    have pending (k : HeadIx) (hk : k ∈ w :: ws) : (s.head k).ctx.pendingStart.isSome = true :=
      (law.awaits k List.not_mem_nil).2.2 (.inr (hwaiters k (e ▸ hk)).1)
    obtain ⟨p, hp⟩ := Option.isSome_iff_exists.1 (pending w (List.mem_cons_self ..))
    have hexposes := (hholder h holder).1
    have notHolder (k : HeadIx) (hk : k ∈ w :: ws) : k ≠ h := by
      rintro rfl
      rw [(hwaiters k (e ▸ hk)).1] at hexposes
      cases hexposes
    obtain ⟨hnotIn, hdistinct⟩ := List.nodup_cons.1 (e ▸ hnodup)
    have held := State.ApartFrom.startLocked (L := ws ++ [h]) (h := w) (n := n)
      (gone.congr fun k => by
        simp only [Option.toList_some, List.mem_append, List.mem_cons, List.not_mem_nil, or_false]; tauto) ?_ hp
      (by rw [chan_setChan_self]) (by rw [chan_setChan_self]) hwnames
    · simp only [startExposure_setChan, setChan_setChan, chan_setChan_self] at held ⊢
      have joined := held.waitAll (n := n) ?_ ?_ ?_
      · simpa only [setChan_setChan, chan_setChan_self, List.nil_append, on] using joined
      · exact List.nodup_append.2 ⟨hdistinct, List.nodup_singleton h, fun k hk k' hk' =>
          List.mem_singleton.1 hk' ▸ notHolder k (List.mem_cons_of_mem w hk)⟩
      · rw [chan_setChan_self]; exact Option.some_ne_none w
      · intro k hk
        have hne : k ≠ w := fun ek => hnotIn (ek ▸ hk)
        rw [head_setChan, startExposure_head_ne s hne]
        obtain ⟨hstate, hnames⟩ := hwaiters k (e ▸ List.mem_cons_of_mem w hk)
        exact ⟨hstate, hnames, pending k (List.mem_cons_of_mem w hk)⟩
    · rw [List.mem_append, List.mem_singleton]
      exact fun hm => hm.elim hnotIn (notHolder w (List.mem_cons_self ..))
  · rename_i e
    rw [e] at gone
    have same : { s.chan n with enabled := true, holder := none, waiters := [] } = { s.chan n with holder := none } := by
      rw [← on, ← e]
    rwa [same] at gone

end State.ApartFrom

end Sys2Proof.Machine
end

section
/-! PROOFS. The law of the strobe channels, act by act. -/

namespace Sys2Proof.Machine

variable {s t : State} {h k : HeadIx} {n : ChanIx}

/-! ## What a release leaves at the heads -/

theorem heldBy_some (e : s.heldBy h = some n) : (s.chan n).holder = some h :=
  of_decide_eq_true (List.find?_some (p := fun n => decide ((s.chan n).holder = some h)) e)

theorem heldBy_none (e : s.heldBy h = none) (n : ChanIx) : (s.chan n).holder ≠ some h := by
  have hall : ∀ n : ChanIx, n ∈ allChans := by decide
  simpa using List.find?_eq_none.1 e n (hall n)

/-- A release changes one head at most: the oldest waiter of the channel that the head holds. -/
theorem releaseStrobe_head_cases (h k : HeadIx) (s : State) : (releaseStrobe h s).head k = s.head k
    ∨ ∃ n p, (s.chan n).holder = some h ∧ k ∈ (s.chan n).waiters ∧ (s.head k).ctx.pendingStart = some p
      ∧ (releaseStrobe h s).head k = (s.head k).startExposure s.now p true := by
  simp only [releaseStrobe]
  split
  · rename_i n hn
    simp only [releaseAt]
    split
    · rename_i w ws e
      by_cases hk : k = w
      · subst hk
        cases hp : (s.head k).ctx.pendingStart with
        | none => left; rw [startExposure_none _ k (by rw [head_setChan]; exact hp)]; rfl
        | some p =>
          refine .inr ⟨n, p, heldBy_some hn, e ▸ List.mem_cons_self .., rfl, ?_⟩
          rw [startExposure_some _ k (by rw [head_setChan]; exact hp), head_setHead_self]; rfl
      · left; rw [startExposure_head_ne _ hk, head_setChan]
    · left; rw [head_setChan]
  · left; rfl

/-- A head that waits for no channel is left by its own release. -/
theorem releaseStrobe_head_self (notIn : ∀ n, h ∉ (s.chan n).waiters) : (releaseStrobe h s).head h = s.head h :=
  (releaseStrobe_head_cases h h s).resolve_right fun ⟨n, _, _, hm, _⟩ => notIn n hm

/-- The head after the end of its exposure (R56, steps 1 to 3). -/
def Head.ended (hd : Head) : Head :=
  { hd with
    ctx := { hd.ctx with group := hd.ctx.group.map fun g =>
      { g with span := addSpan g.span (hd.timers.exposure.getD 0) } }
    timers := HeadTimers.stopped }

theorem endExposure_head (notIn : ∀ n, h ∉ (s.chan n).waiters) : (endExposure h s).head h = (s.head h).ended := by
  simp only [endExposure, modHead_eq_setHead, head_setHead_self, releaseStrobe_head_self notIn]
  rfl

theorem endExposure_head_ne (hk : k ≠ h) : (endExposure h s).head k = (releaseStrobe h s).head k := by
  simp only [endExposure, modHead_eq_setHead, head_setHead_ne _ hk]

theorem teardown_head_ne (hk : k ≠ h) : (teardown h s).head k = (releaseStrobe h s).head k := by
  simp only [teardown, modHead_eq_setHead, head_setHead_ne _ hk, head_leaveWaiters]

/-- The head after a teardown, but for what the release of its channel may have changed before. -/
theorem teardown_head (h : HeadIx) (s : State) : (teardown h s).head h = { (releaseStrobe h s).head h with
    ctx := ((releaseStrobe h s).head h).ctx.tornDown, timers := HeadTimers.stopped } := by
  simp only [teardown, modHead_eq_setHead, head_setHead_self, head_leaveWaiters]

/-- What the slot's part of a reset and of an ABORT leave. -/
theorem resetSlot_slot_frame (h : HeadIx) (s : State) : ∃ slot a l,
    resetSlot h s = { s.setHead h { s.head h with slot := slot } with arb := a, link := l } := by
  have same : s = { s.setHead h { s.head h with slot := (s.head h).slot } with arb := s.arb, link := s.link } := by
    rw [show s.setHead h { s.head h with slot := (s.head h).slot } = s from setHead_head s h]
  simp only [resetSlot]
  split
  · exact ⟨_, _, _, same⟩
  · exact ⟨.empty, _, s.link, rfl⟩
  · simp only [cancelReadout]
    repeat' split
    · exact ⟨.empty, _, _, rfl⟩
    · exact ⟨_, _, _, same⟩
    · exact ⟨_, _, _, same⟩

theorem abortSlot_slot_frame (h : HeadIx) (s : State) : ∃ slot a,
    (abortSlot h s).2 = { s.setHead h { s.head h with slot := slot } with arb := a } := by
  simp only [abortSlot]
  split
  · exact ⟨(s.head h).slot, s.arb, by rw [show s.setHead h { s.head h with slot := (s.head h).slot } = s from
      setHead_head s h]⟩
  · exact ⟨.empty, _, rfl⟩
  · exact ⟨_, s.arb, rfl⟩

/-- A grant hands one slot on, or does nothing. -/
theorem tryGrant_slot_frame (s : State) : tryGrant s = s ∨ ∃ k g rest, s.arb.queue = k :: rest
    ∧ s.arb.port = .idle ∧ (s.head k).slot = .queued g ∧ tryGrant s = grantTo k g rest s := by
  simp only [tryGrant]
  split
  · rename_i due
    simp only [State.grantDue, Bool.and_eq_true, decide_eq_true_eq] at due
    split
    · split
      · exact .inr ⟨_, _, _, ‹_›, due.1.1, ‹_›, rfl⟩
      all_goals exact .inl rfl
    · exact .inl rfl
  · exact .inl rfl

/-- A head at its end condition: the starting source and the timers that could end the exposure are ended (R54, R55). -/
def Head.closing (overrun : Bool) (hd : Head) : Head :=
  { hd with
    ctx := { hd.ctx with
      startLine := none
      group := hd.ctx.group.map fun g => { g with overrun := g.overrun || overrun } }
    timers := { hd.timers with integration := none, widthLimit := none } }

/-- A head whose last exposure is held (R60, R79). -/
def Head.extended (hd : Head) : Head :=
  { hd with
    state := .extending
    ctx := { hd.ctx with group := hd.ctx.group.map fun g => { g with stretched := true } } }

/-- A head after an exposure that is not the last of its group (R60). -/
def Head.nextExposure (hd : Head) : Head :=
  { hd with state := .armed, ctx := { hd.ctx with exposuresDone := hd.ctx.exposuresDone + 1 } }

/-- A head whose pending start is dropped, ARMED again (R47, R105). -/
def Head.rearmed (hd : Head) : Head :=
  { hd with
    state := .armed
    ctx := { hd.ctx with pendingStart := none, startLine := none }
    timers := HeadTimers.stopped }

/-- The three courses of an end condition (R60). -/
theorem endCondition_cases (h : HeadIx) (overrun : Bool) (s : State) :
    ((s.head h).ctx.lastExposure = true ∧ (s.head h).slot = .empty ∧ endCondition h overrun s
      = completeGroup h (endExposure h (s.setHead h ((s.head h).closing overrun))))
    ∨ ((s.head h).ctx.lastExposure = true ∧ (s.head h).slot ≠ .empty ∧ endCondition h overrun s
      = s.setHead h ((s.head h).closing overrun).extended)
    ∨ (s.head h).ctx.lastExposure = false ∧ endCondition h overrun s
      = match (s.head h).ctx.prog.repetition with
        | .trigger => (endExposure h (s.setHead h ((s.head h).closing overrun))).modHead h Head.nextExposure
        | .timer =>
          enterPacing h ((endExposure h (s.setHead h ((s.head h).closing overrun))).modHead h Head.nextExposure) := by
  have own : (s.modHead h (Head.closing overrun)).head h = (s.head h).closing overrun := head_setHead_self ..
  have e : endCondition h overrun s = (if ((s.head h).closing overrun).ctx.lastExposure then
      if ((s.head h).closing overrun).slot = .empty then
        completeGroup h (endExposure h (s.modHead h (Head.closing overrun)))
      else (s.modHead h (Head.closing overrun)).modHead h Head.extended
    else match ((s.head h).closing overrun).ctx.prog.repetition with
      | .trigger => (endExposure h (s.modHead h (Head.closing overrun))).modHead h Head.nextExposure
      | .timer => enterPacing h ((endExposure h (s.modHead h (Head.closing overrun))).modHead h Head.nextExposure)) := by
    rw [← own]; rfl
  rw [e]
  split
  · rename_i last
    split
    · exact .inl ⟨last, ‹_›, rfl⟩
    · refine .inr (.inl ⟨last, ‹_›, ?_⟩)
      rw [modHead_eq_setHead, own, modHead_eq_setHead, setHead_setHead]
  · rename_i last
    exact .inr (.inr ⟨Bool.eq_false_of_not_eq_true last, rfl⟩)

/-- An offering moves a head's record marks at most. -/
theorem offer_head (h k : HeadIx) (body : Body) (s : State) : ∃ seq lost restart,
    (offer h body s).head k = { s.head k with seq := seq, lost := lost, restart := restart } := by
  by_cases e : k = h
  · obtain ⟨lost, restart, e'⟩ := offer_head_frame s h body
    exact ⟨_, lost, restart, by rw [e, e']⟩
  · exact ⟨_, _, _, offer_head_ne s h e body⟩

/-- A drop moves a head's drop counter and record marks at most. -/
theorem dropTrigger_head (h k : HeadIx) (r : DropReason) (src : Option Source) (time : Stamp) (s : State) :
    ∃ drops seq lost restart, (dropTrigger h r src time s).head k =
      { s.head k with drops := drops, seq := seq, lost := lost, restart := restart } := by
  have counted : ∃ drops, ((s.modHead h fun hd => { hd with drops := satInc hd.drops }).raise dropBit).head k
      = { s.head k with drops := drops } := by
    rw [modHead_eq_setHead, head_raise, head_setHead]
    split
    · subst_vars; exact ⟨_, rfl⟩
    · exact ⟨_, rfl⟩
  obtain ⟨drops, e⟩ := counted
  simp only [dropTrigger]
  split
  · obtain ⟨seq, lost, restart, e'⟩ := offer_head h k (.drop r src
      (if wantsTime (((s.modHead h fun hd => { hd with drops := satInc hd.drops }).raise dropBit).head h).ctx.prog.fields
        then some time else none)) ((s.modHead h fun hd => { hd with drops := satInc hd.drops }).raise dropBit)
    exact ⟨drops, seq, lost, restart, by rw [e', e]⟩
  · exact ⟨drops, _, _, _, e⟩

theorem offer_ctx (s : State) (h k : HeadIx) (body : Body) : ((offer h body s).head k).ctx = (s.head k).ctx := by
  obtain ⟨_, _, _, e⟩ := offer_head h k body s; rw [e]

theorem dropTrigger_ctx (s : State) (h k : HeadIx) (r : DropReason) (src : Option Source) (time : Stamp) :
    ((dropTrigger h r src time s).head k).ctx = (s.head k).ctx := by
  obtain ⟨_, _, _, _, e⟩ := dropTrigger_head h k r src time s; rw [e]

namespace State.ApartFrom

/-- What the law sees of a head that waits for no channel. -/
theorem notIn (law : s.ApartFrom []) (notWaiting : (s.head h).state ≠ .strobeWait) (n : ChanIx) :
    h ∉ (s.chan n).waiters := fun hm => notWaiting ((law.serves n).2.2.2.2 h hm).1

theorem noPending (law : s.ApartFrom []) (notWaiting : (s.head h).state ≠ .strobeWait)
    (notDelay : (s.head h).state ≠ .delay) : (s.head h).ctx.pendingStart = none := by
  rw [← Option.not_isSome_iff_eq_none, (law.awaits h List.not_mem_nil).2]
  exact fun e => e.elim notDelay notWaiting

theorem pendingIn (law : s.ApartFrom []) (e : (s.head h).state = .delay ∨ (s.head h).state = .strobeWait) :
    ∃ p, (s.head h).ctx.pendingStart = some p :=
  Option.isSome_iff_exists.1 ((law.awaits h List.not_mem_nil).2.2 e)

/-- A holder exposes. -/
theorem holds_exposes (law : s.ApartFrom []) (e : (s.chan n).holder = some h) : (s.head h).state.exposes = true :=
  ((law.serves n).2.2.1 h e).1

theorem free (law : s.ApartFrom []) (notExposes : (s.head h).state.exposes = false) (n : ChanIx) :
    (s.chan n).holder ≠ some h := fun e => by rw [law.holds_exposes e] at notExposes; cases notExposes

/-- A head that holds no channel and waits for none stands apart as it is. -/
theorem aside_free (law : s.ApartFrom []) (holds : ∀ n, (s.chan n).holder ≠ some h)
    (notWaiting : (s.head h).state ≠ .strobeWait) : s.ApartFrom [h] :=
  ⟨law.serves, fun k hk n => by rw [List.mem_singleton.1 hk]; exact ⟨holds n, law.notIn notWaiting n⟩,
    fun k _ => law.awaits k List.not_mem_nil⟩

theorem release (law : s.ApartFrom []) (notWaiting : (s.head h).state ≠ .strobeWait) :
    (releaseStrobe h s).ApartFrom [h] := by
  simp only [releaseStrobe]
  split
  · exact law.releaseAt (heldBy_some ‹_›)
  · exact law.aside_free (heldBy_none ‹_›) notWaiting

/-- Of the other heads a release makes at most one expose, and that one waited with a start pending. -/
theorem release_head (law : s.ApartFrom []) (h k : HeadIx) : (releaseStrobe h s).head k = s.head k
    ∨ k ≠ h ∧ (s.head k).state = .strobeWait ∧ ∃ p, (s.head k).ctx.pendingStart = some p
      ∧ (releaseStrobe h s).head k = (s.head k).startExposure s.now p true := by
  refine (releaseStrobe_head_cases h k s).imp_right fun ⟨n, p, hholder, hm, hp, e⟩ => ?_
  have waits := ((law.serves n).2.2.2.2 k hm).1
  refine ⟨fun ek => ?_, waits, p, hp, e⟩
  have exposes := law.holds_exposes hholder
  rw [← ek, waits] at exposes
  cases exposes

theorem endExposure (law : s.ApartFrom []) (notWaiting : (s.head h).state ≠ .strobeWait) :
    (Machine.endExposure h s).ApartFrom [h] :=
  (law.release notWaiting).setHead (List.mem_singleton.2 rfl) _

theorem torn (law : s.ApartFrom []) : (teardown h s).ApartFrom [h] := by
  have left : (leaveWaiters h (releaseStrobe h s)).ApartFrom [h] := by
    simp only [releaseStrobe]
    split
    · have gone := law.releaseAt (heldBy_some ‹_›)
      exact (gone.leave fun n => (gone.apart h (List.mem_singleton.2 rfl) n).1).congr (by simp)
    · exact law.leave (heldBy_none ‹_›)
  exact left.setHead (List.mem_singleton.2 rfl) _

theorem torn_pending (h : HeadIx) (s : State) : ((teardown h s).head h).ctx.pendingStart = none := by
  rw [teardown_head]; rfl

theorem fault (law : s.ApartFrom []) (h : HeadIx) (code : FaultCode) : (headFault h code s).ApartFrom [] := by
  simp only [headFault]
  refine setHead_rejoin (h := h) ((law.torn.offer h _).raise _) (by simp) (by simp) ?_
  show ((Machine.offer h _ (teardown h s)).head h).ctx.pendingStart = none
  rw [offer_ctx, torn_pending]

theorem stop (law : s.ApartFrom []) (h : HeadIx) : (stopHead h s).ApartFrom [] := by
  simp only [stopHead]
  repeat' split
  · exact law.setHead_same rfl rfl rfl
  · exact (law.torn.offer h _).drain
  · exact law

theorem abortStated (a : s.ApartFrom [h]) (pending : (s.head h).ctx.pendingStart = none) (fate : SlotFate) :
    (abortState h fate s).ApartFrom [] := by
  cases fate with
  | none =>
    refine State.ApartFrom.raise ?_ _
    exact a.setHead_rejoin (by simp) (by simp) pending
  | unqueued =>
    refine State.ApartFrom.raise ?_ _
    exact a.setHead_rejoin (by simp) (by simp) pending
  | readoutContinues => exact a.setHead_rejoin (by simp) (by simp) pending

theorem abort (law : s.ApartFrom []) (h : HeadIx) : (abortHead h s).ApartFrom [] := by
  obtain ⟨slot, a, e⟩ := abortSlot_slot_frame h (teardown h s)
  have unslotted : (abortSlot h (teardown h s)).2.ApartFrom [h] := by
    rw [e]; exact (law.torn.setHead (List.mem_singleton.2 rfl) _).of_same rfl fun _ => ⟨rfl, rfl, rfl⟩
  have pending : ((abortSlot h (teardown h s)).2.head h).ctx.pendingStart = none := by
    rw [e, show (State.head { (teardown h s).setHead h _ with arb := a } h) = _ from head_setHead_self ..]
    exact torn_pending h s
  have ended (fate : SlotFate) (body : Body) :
      (abortState h fate (Machine.offer h body (abortSlot h (teardown h s)).2)).ApartFrom [] :=
    (unslotted.offer h body).abortStated (by rw [offer_ctx, pending]) fate
  simp only [abortHead]
  split
  · exact law
  · exact law
  · exact law
  all_goals exact ended _ _

theorem reset (law : s.ApartFrom []) (h : HeadIx) : (headReset h s).ApartFrom [] := by
  obtain ⟨slot, a, l, e⟩ := resetSlot_slot_frame h (teardown h s)
  have unslotted : (resetSlot h (teardown h s)).ApartFrom [h] := by
    rw [e]; exact (law.torn.setHead (List.mem_singleton.2 rfl) _).of_same rfl fun _ => ⟨rfl, rfl, rfl⟩
  refine unslotted.setHead_rejoin ?_ ?_ rfl <;> simp only [Head.afterReset] <;> split <;> exact fun e => by cases e

/-! ## Groups, slots and grants -/

/-- A head apart in no state that waits or delays completes its group and goes on with the others. -/
theorem complete (a : s.ApartFrom [h]) (notWaiting : (s.head h).state ≠ .strobeWait) (notDelay : (s.head h).state ≠ .delay)
    (pending : (s.head h).ctx.pendingStart = none) : (completeGroup h s).ApartFrom [] := by
  have joined (y : Head) (x : Arbiter) : State.ApartFrom { s.setHead h y with arb := x } [h] :=
    (a.setHead (List.mem_singleton.2 rfl) y).of_same rfl fun _ => ⟨rfl, rfl, rfl⟩
  simp only [completeGroup]
  split
  · exact a.rejoin notWaiting (by rw [pending]; exact ⟨fun e => Bool.noConfusion e, fun e => absurd e notDelay⟩)
  · refine (joined _ _).decide ?_
    show ((s.setHead h _).head h).ctx.pendingStart = none
    rw [head_setHead_self]
    exact pending

/-- An exposing head may go on into EXTENDING. -/
theorem extend (law : s.ApartFrom []) (exposing : (s.head h).state = .exposing) {y : Head} (state : y.state = .extending)
    (prog : y.ctx.prog = (s.head h).ctx.prog) (pending : y.ctx.pendingStart = none) :
    (s.setHead h y).ApartFrom [] := by
  have notWaiting : (s.head h).state ≠ .strobeWait := by rw [exposing]; exact fun e => by cases e
  refine ⟨fun n => ?_, fun _ e => absurd e List.not_mem_nil, fun k _ => ?_⟩
  · obtain ⟨henabled, hempty, hholder, hnodup, hwaiters⟩ := law.serves n
    refine ⟨henabled, hempty, fun k e => ?_, hnodup, fun w hw => ?_⟩
    · rw [head_setHead]
      split
      · subst_vars
        exact ⟨by rw [state]; rfl, prog ▸ (hholder _ e).2⟩
      · exact hholder k e
    · rw [head_setHead_ne _ (fun e : w = h => law.notIn notWaiting n (e ▸ hw))]
      exact hwaiters w hw
  · rw [Awaits, head_setHead]
    split
    · rw [state, pending]
      exact ⟨fun e => ExpState.noConfusion e, fun e => Bool.noConfusion e,
        fun e => e.elim ExpState.noConfusion ExpState.noConfusion⟩
    · exact law.awaits k List.not_mem_nil

theorem ends (law : s.ApartFrom []) (exposing : (s.head h).state = .exposing) (overrun : Bool) :
    (endCondition h overrun s).ApartFrom [] := by
  have pending : (s.head h).ctx.pendingStart = none :=
    law.noPending (by rw [exposing]; exact fun e => by cases e) (by rw [exposing]; exact fun e => by cases e)
  have lawT : (s.setHead h ((s.head h).closing overrun)).ApartFrom [] := law.setHead_same rfl rfl rfl
  have notWaiting : ((s.setHead h ((s.head h).closing overrun)).head h).state ≠ .strobeWait := by
    rw [head_setHead_self]; show (s.head h).state ≠ _; rw [exposing]; exact fun e => by cases e
  have ended := lawT.endExposure notWaiting
  have head := endExposure_head (lawT.notIn notWaiting)
  rw [head_setHead_self] at head
  have none : ((Machine.endExposure h (s.setHead h ((s.head h).closing overrun))).head h).ctx.pendingStart = none := by
    rw [head]; exact pending
  obtain ⟨-, -, e⟩ | ⟨-, -, e⟩ | ⟨-, e⟩ := endCondition_cases h overrun s <;> rw [e]
  · refine ended.complete ?_ ?_ none <;> rw [head] <;> show (s.head h).state ≠ _ <;> rw [exposing] <;>
      exact fun e => by cases e
  · exact law.extend exposing rfl rfl pending
  · have armed := ended.setHead (h := h) (List.mem_singleton.2 rfl)
      ((Machine.endExposure h (s.setHead h ((s.head h).closing overrun))).head h).nextExposure
    split
    · exact armed.rejoin (by simp [Head.nextExposure]) (by simp [Head.nextExposure, none])
    · exact armed.pacing (by rw [head_setHead_self]; exact none)

theorem grant (law : s.ApartFrom []) : (tryGrant s).ApartFrom [] := by
  obtain e | ⟨k, g, rest, -, -, -, e⟩ := tryGrant_slot_frame s
  · rwa [e]
  · rw [e]
    exact (law.setHead_same (k := k) (y := { s.head k with slot := .active g }) rfl rfl rfl).of_same rfl
      fun _ => ⟨rfl, rfl, rfl⟩

theorem choices (law : s.ApartFrom L) (n : Nat) : State.ApartFrom { s with choices := n } L :=
  law.of_same rfl fun _ => ⟨rfl, rfl, rfl⟩

theorem grantOrNot (law : s.ApartFrom []) : (Machine.grantOrNot s).ApartFrom [] := by
  obtain ⟨-, e⟩ | ⟨-, e | e⟩ := grantOrNot_cases s <;> rw [e]
  · exact law
  · exact law.choices _
  · exact (law.choices _).grant

theorem freed (law : s.ApartFrom []) (h : HeadIx) : (freePort h s).ApartFrom [] :=
  (law.setHead_same (k := h) (y := { s.head h with slot := .empty }) rfl rfl rfl).of_same rfl fun _ => ⟨rfl, rfl, rfl⟩

/-! ## Events -/

theorem asserted (law : s.ApartFrom []) (src : Source) (time : Stamp) (h : HeadIx) :
    (receiveAssert src time h s).ApartFrom [] := by
  simp only [receiveAssert]
  repeat' split
  · rename_i state
    exact (law.aside (by rw [state]; rfl) (by rw [state]; exact fun e => by cases e)).accept _ src
  · exact law.setHead_same rfl rfl rfl
  iterate 7 exact law.drop h _ _ _
  all_goals exact law

theorem short (law : s.ApartFrom []) (notExposes : (s.head h).state.exposes = false) (n : LineIx) :
    (shortStart h n s).ApartFrom [] := by
  have left := (law.leave (law.free notExposes)).setHead (h := h) (List.mem_cons_self ..) (s.head h).rearmed
  exact (left.rejoin (by simp [Head.rearmed]) (by simp [Head.rearmed])).drop h _ _ _

theorem released (law : s.ApartFrom []) (n : LineIx) (h : HeadIx) : (receiveRelease n h s).ApartFrom [] := by
  simp only [receiveRelease]
  repeat' split
  · rename_i state; exact law.short (by rw [state]; rfl) n
  · rename_i state; exact law.short (by rw [state]; rfl) n
  · rename_i state; exact law.ends state false
  all_goals exact law

theorem asserts (law : s.ApartFrom []) (src : Source) (time : Stamp) (heads : List HeadIx) :
    (deliverAssert src time heads s).ApartFrom [] := by
  obtain ⟨order, n, -, e⟩ := deliverAssert_spec s src time heads
  rw [e]
  exact List.foldlRecOn (motive := fun s : State => s.ApartFrom []) order _ (law.choices n)
    fun _ a h _ => a.asserted src time h

theorem releases (law : s.ApartFrom []) (n : LineIx) : (deliverRelease n s).ApartFrom [] := by
  obtain ⟨order, k, -, e⟩ := deliverRelease_spec s n
  rw [e]
  exact inTurn_induction (P := fun s => s.ApartFrom []) (fun h _ a => a.released n h) (fun _ a => a.grantOrNot) order _
    (law.choices k)

/-! ## Completions -/

theorem blocked (law : s.ApartFrom []) (state : (s.head h).state = .blocked) : (leaveBlocked h s).ApartFrom [] := by
  have notWaiting : (s.head h).state ≠ .strobeWait := by rw [state]; exact fun e => by cases e
  have pending := law.noPending notWaiting (by rw [state]; exact fun e => by cases e)
  have apart := law.aside (h := h) (by rw [state]; rfl) notWaiting
  simp only [leaveBlocked]
  split
  · exact apart.accept _ _
  split
  · exact apart.setHead_rejoin (by simp) (by simp) pending
  · exact apart.pacing pending

theorem emptied (law : s.ApartFrom []) (h : HeadIx) : (slotEmptied h s).ApartFrom [] := by
  simp only [slotEmptied]
  split
  · rename_i state
    have notWaiting : (s.head h).state ≠ .strobeWait := by rw [state]; exact fun e => by cases e
    have idle : (s.modHead h fun hd => { hd with state := .idle }).ApartFrom [] :=
      (law.aside (by rw [state]; rfl) notWaiting).setHead_rejoin (by simp) (by simp)
        (law.noPending notWaiting (by rw [state]; exact fun e => by cases e))
    exact idle.raise _
  · rename_i state; exact law.blocked state
  · rename_i state
    have notWaiting : (s.head h).state ≠ .strobeWait := by rw [state]; exact fun e => by cases e
    have notDelay : (s.head h).state ≠ .delay := by rw [state]; exact fun e => by cases e
    have pending := law.noPending notWaiting notDelay
    refine (law.endExposure notWaiting).complete ?_ ?_ ?_ <;> rw [endExposure_head (law.notIn notWaiting)]
    · exact notWaiting
    · exact notDelay
    · exact pending
  all_goals exact law

theorem notified (law : s.ApartFrom []) (h : HeadIx) : (notifyEmptied h s).ApartFrom [] := by
  simp only [notifyEmptied]
  split
  · exact law.grantOrNot.emptied h
  · exact law.emptied h

theorem captured (law : s.ApartFrom []) (h : HeadIx) (status : Status) (level : Word) :
    (captureReadout h status level s).ApartFrom [] := by
  simp only [captureReadout]
  split
  · exact ((law.offer h _).freed h).notified h
  all_goals exact (law.freed h).notified h

theorem takes (law : s.ApartFrom []) (tag : Byte) (status : Status) (level : Word) :
    (takeComplete tag status level s).ApartFrom [] := by
  have stray : (strayCompletion s).ApartFrom [] := law.of_same rfl fun _ => ⟨rfl, rfl, rfl⟩
  simp only [takeComplete]
  repeat' split
  · exact stray
  · exact law.captured _ _ _
  · exact law.captured _ _ _
  · exact (law.freed _).fault _ _
  · exact stray

theorem timeout (law : s.ApartFrom []) : (expireReadout s).ApartFrom [] := by
  have passed (m : Message) : (passMessage m s).ApartFrom [] := law.of_same rfl fun _ => ⟨rfl, rfl, rfl⟩
  simp only [expireReadout]
  split
  · exact ((passed _).freed _).fault _ _
  all_goals exact law

/-! ## Expiries -/

theorem delayExpires (law : s.ApartFrom []) (h : HeadIx) : (expireDelay h s).ApartFrom [] := by
  simp only [expireDelay]
  split
  · rename_i due
    simp only [Head.delayDue, Bool.and_eq_true, decide_eq_true_eq] at due
    obtain ⟨state, -⟩ := due
    obtain ⟨p, pending⟩ := law.pendingIn (.inl state)
    have apart := law.aside (h := h) (by rw [state]; rfl) (by rw [state]; exact fun e => by cases e)
    exact (apart.setHead (List.mem_singleton.2 rfl) _).attempt (p := p) (by rw [head_setHead_self]; exact pending)
  · exact law

theorem spacingExpires (law : s.ApartFrom []) (h : HeadIx) : (expireSpacing h s).ApartFrom [] := by
  have expired : (s.modHead h fun hd => { hd with ctx := { hd.ctx with spacing := .expired 0 s.now } }).ApartFrom [] :=
    law.setHead_same rfl rfl rfl
  simp only [expireSpacing]
  repeat' split
  · rename_i state
    refine (expired.aside ?_ ?_).paced 0 s.now <;> rw [modHead_eq_setHead, head_setHead_self]
    · show (s.head h).state.exposes = false
      rw [state]; rfl
    · show (s.head h).state ≠ _
      rw [state]; exact fun e => by cases e
  · exact expired
  · exact law

theorem strobeWaitExpires (law : s.ApartFrom []) (h : HeadIx) : (expireStrobeWait h s).ApartFrom [] := by
  simp only [expireStrobeWait]
  split
  · rename_i due
    simp only [Head.strobeWaitDue, Bool.and_eq_true, decide_eq_true_eq] at due
    obtain ⟨state, -⟩ := due
    split
    · exact law
    rename_i p _
    have left := (law.leave (law.free (by rw [state]; rfl))).setHead (h := h) (List.mem_cons_self ..) (s.head h).rearmed
    split
    · exact (left.rejoin (by simp [Head.rearmed]) (by simp [Head.rearmed])).drop h _ _ _
    · exact (left.rejoin (by simp [Head.rearmed]) (by simp [Head.rearmed])).drop h _ _ _
    · have dropped := left.drop h .strobeTimeout none p.arrival
      have none : ((dropTrigger h .strobeTimeout none p.arrival ((leaveWaiters h s).setHead h (s.head h).rearmed)).head
          h).ctx.pendingStart = none := by rw [dropTrigger_ctx, head_setHead_self]; rfl
      split
      · exact dropped.setHead_rejoin (by simp) (by simp) none
      · exact dropped.pacing none
  · exact law

/-! ## Strobe channels -/

/-- A channel's enable may be set and its polarity changed. -/
theorem configure (law : s.ApartFrom []) {c : Channel} (holder : c.holder = (s.chan n).holder)
    (waiters : c.waiters = (s.chan n).waiters) (enabled : c.enabled = false → (s.chan n).enabled = false) :
    (s.setChan n c).ApartFrom [] := by
  refine ⟨law.serves_setChan ?_, fun _ e => absurd e List.not_mem_nil, fun k _ => ?_⟩
  · obtain ⟨henabled, hrest⟩ := law.serves n
    rw [Serves, holder, waiters]
    exact ⟨fun e => henabled (enabled e), hrest⟩
  · obtain ⟨hwait, hpending⟩ := law.awaits k List.not_mem_nil
    refine ⟨fun e => ?_, hpending⟩
    obtain ⟨m, hm, hmem⟩ := hwait e
    refine ⟨m, hm, ?_⟩
    rw [chan_setChan]
    split
    · subst_vars; exact waiters ▸ hmem
    · exact hmem

/-- Heads apart, each with a start pending, start without a lock, one after the other. -/
theorem startAll {ws : List HeadIx} (a : s.ApartFrom ws) (distinct : ws.Nodup)
    (pending : ∀ w ∈ ws, ∃ p, (s.head w).ctx.pendingStart = some p) :
    (ws.foldl (fun s w => Machine.startExposure w false s) s).ApartFrom [] := by
  induction ws generalizing s with
  | nil => exact a
  | cons w ws ih =>
    obtain ⟨hnot, hdistinct⟩ := List.nodup_cons.1 distinct
    obtain ⟨p, hp⟩ := pending w (List.mem_cons_self ..)
    refine ih (a.startExposure hp false) hdistinct fun k hk => ?_
    rw [startExposure_head_ne s fun e : k = w => hnot (e ▸ hk)]
    exact pending k (List.mem_cons_of_mem w hk)

theorem disable (law : s.ApartFrom []) (n : ChanIx) : (disableStrobe n s).ApartFrom [] := by
  obtain ⟨-, -, hholder, hnodup, hwaiters⟩ := law.serves n
  have gone := law.letGo n false
  have waiting (w : HeadIx) (hw : w ∈ (s.chan n).waiters) : ∃ p, (s.head w).ctx.pendingStart = some p :=
    law.pendingIn (.inr (hwaiters w hw).1)
  simp only [disableStrobe]
  split
  · rename_i h e
    rw [e] at gone
    have exposes := (hholder h e).1
    have notWaiting : (s.head h).state ≠ .strobeWait := fun e => by rw [e] at exposes; cases exposes
    have notDelay : (s.head h).state ≠ .delay := fun e => by rw [e] at exposes; cases exposes
    have dark := State.ApartFrom.setHead_rejoin (h := h) (L := (s.chan n).waiters) gone (y := (s.head h).darken) notWaiting
      notDelay (law.noPending notWaiting notDelay)
    refine dark.startAll hnodup fun w hw => ?_
    rw [head_setHead_ne _ fun e : w = h => notWaiting (e ▸ (hwaiters w hw).1)]
    exact waiting w hw
  · rename_i e
    rw [e] at gone
    exact gone.startAll hnodup waiting

theorem strobeSet (law : s.ApartFrom []) (n : ChanIx) (enable low : Bool) : (setStrobe n enable low s).ApartFrom [] := by
  have polar : (s.setChan n { s.chan n with activeLow := low }).ApartFrom [] := law.configure rfl rfl id
  simp only [setStrobe]
  split
  · exact polar.configure rfl rfl fun e => Bool.noConfusion e
  · exact polar.disable n
  · exact polar
  · exact polar

theorem strobeCfg (law : s.ApartFrom []) (w : Word) : (writeStrobeCfg w s).ApartFrom [] :=
  List.foldlRecOn (motive := fun s : State => s.ApartFrom []) allChans _ law fun _ a n _ => a.strobeSet n _ _

/-! ## HEAD_EN, resets, the tick -/

theorem headOff (law : s.ApartFrom []) (h : HeadIx) : (disableHead h s).ApartFrom [] := by
  simp only [disableHead]
  split
  · have state : ((headReset h s).head h).state = .idle ∨ ((headReset h s).head h).state = .off := by
      rw [headReset_head]
      exact ite_eq_or_eq ..
    have none : ((headReset h s).head h).ctx.pendingStart = none := by rw [headReset_head]; rfl
    refine ((law.reset h).aside (h := h) ?_ ?_).setHead_rejoin (by simp) (by simp) none
    · obtain e | e := state <;> rw [e] <;> rfl
    · obtain e | e := state <;> rw [e] <;> exact fun e => by cases e
  · exact law

theorem headOn (law : s.ApartFrom []) (h : HeadIx) (off : (s.head h).enabled = false → (s.head h).state = .off) :
    (enableHead h s).ApartFrom [] := by
  cases on : (s.head h).enabled with
  | true => rwa [enableHead_on s h on]
  | false =>
    rw [enableHead_off s h on]
    exact (law.aside (by rw [off on]; rfl) (by rw [off on]; exact fun e => by cases e)).setHead_rejoin
      (by simp) (by simp) rfl

theorem ticked (law : s.ApartFrom []) : (tickEnd s).ApartFrom [] :=
  law.of_same rfl fun h => by
    rw [head_tickEnd]
    exact ⟨rfl, rfl, Option.isSome_map ..⟩

theorem softReset (s : State) : (Machine.softReset s).ApartFrom [] := by
  refine ⟨fun n => ?_, fun _ e => absurd e List.not_mem_nil, fun k _ => ?_⟩
  · rw [chan_softReset]
    exact ⟨fun _ => rfl, fun _ => rfl, fun _ e => (by cases e), List.nodup_nil, fun _ e => by cases e⟩
  · rw [Awaits, head_softReset]
    have state : (s.head k).afterReset.state = .idle ∨ (s.head k).afterReset.state = .off := ite_eq_or_eq ..
    obtain e | e := state <;> rw [e] <;>
      exact ⟨fun e => ExpState.noConfusion e, fun e => Bool.noConfusion e,
        fun e => e.elim ExpState.noConfusion ExpState.noConfusion⟩

end State.ApartFrom

end Sys2Proof.Machine
end

section
/-! PROOFS. Every step keeps the law of the strobe channels. -/

namespace Sys2Proof.Machine

variable {s t : State} {h k : HeadIx} {n : ChanIx}

/-- A head that is not enabled is in OFF (R36). -/
abbrev State.OffLaw (s : State) : Prop := ∀ k : HeadIx, (s.head k).enabled = false → (s.head k).state = .off

theorem State.OffLaw.of_states (states : s.HeadStateLaw) : s.OffLaw := fun k off => by
  by_contra on
  rw [(states k).1.2 on] at off
  cases off

/-- Of the heads but its own a HEAD_RESET changes what the release of its channel does. -/
theorem headReset_head_release (hk : k ≠ h) : (headReset h s).head k = (releaseStrobe h s).head k := by
  obtain ⟨slot, a, l, e⟩ := resetSlot_slot_frame h (teardown h s)
  rw [headReset_head_ne s h hk, e]
  exact (head_setHead_ne _ hk _).trans (teardown_head_ne hk)

namespace State.ApartFrom

/-- What a head keeps of its enable and state at another head's release, seen from OFF. -/
theorem release_off (law : s.ApartFrom []) (off : s.OffLaw) (h : HeadIx) : (releaseStrobe h s).OffLaw := fun k hk => by
  obtain e | ⟨-, waits, p, -, e⟩ := law.release_head h k
  · rw [e] at hk ⊢; exact off k hk
  · rw [e, Head.startExposure_enabled] at hk
    rw [off k hk] at waits
    cases waits

theorem disable_off (law : s.ApartFrom []) (off : s.OffLaw) (h : HeadIx) : (disableHead h s).OffLaw := fun k hk => by
  cases on : (s.head h).enabled with
  | false => rw [disableHead_off s h on] at hk ⊢; exact off k hk
  | true =>
    by_cases e : k = h
    · subst e; rw [disableHead_head s k on]
    · rw [disableHead_head_ne s h e on, headReset_head_release e] at hk ⊢
      exact law.release_off off h k hk

theorem headSet (law : s.ApartFrom []) (off : s.OffLaw) (h : HeadIx) (on : Bool) : (setHeadEnable h on s).ApartFrom [] := by
  cases on with
  | true => exact law.headOn h (off h)
  | false => exact law.headOff h

end State.ApartFrom

theorem State.OffLaw.enable (off : s.OffLaw) (h : HeadIx) : (enableHead h s).OffLaw := fun k hk => by
  cases on : (s.head h).enabled with
  | true => rw [enableHead_on s h on] at hk ⊢; exact off k hk
  | false =>
    rw [enableHead_off s h on, head_setHead] at hk ⊢
    split at hk
    · cases hk
    · rw [if_neg ‹_›]; exact off k hk

theorem State.OffLaw.of_slots (off : s.OffLaw) (slots : ∀ k, ∃ slot, t.head k = { s.head k with slot := slot }) :
    t.OffLaw := fun k hk => by
  obtain ⟨_, e⟩ := slots k
  rw [e] at hk ⊢
  exact off k hk

/-- A grant within an event changes one slot at most, of the heads. -/
theorem grantOrNot_head (k : HeadIx) (s : State) : ∃ slot, (grantOrNot s).head k = { s.head k with slot := slot } := by
  obtain ⟨-, e⟩ | ⟨-, e | e⟩ := grantOrNot_cases s <;> rw [e]
  · exact ⟨_, rfl⟩
  · exact ⟨_, rfl⟩
  · obtain e | ⟨i, g, rest, -, -, -, e⟩ := tryGrant_slot_frame { s with choices := s.choices + 1 } <;> rw [e]
    · exact ⟨_, rfl⟩
    · simp only [grantTo, passMessage]
      by_cases hk : k = i
      · subst hk; exact ⟨.active g, head_setHead_self ..⟩
      · exact ⟨_, head_setHead_ne _ hk _⟩

theorem State.ApartFrom.headEn (law : s.ApartFrom []) (off : s.OffLaw) (w : Word) :
    (writeHeadEn w s).ApartFrom [] := by
  obtain ⟨order, n, -, e⟩ := writeHeadEn_spec s w
  rw [e]
  refine (inTurn_induction (P := fun s => s.ApartFrom [] ∧ s.OffLaw) (fun h s ⟨law, off⟩ => ⟨law.headSet off h _, ?_⟩)
    (fun s ⟨law, off⟩ => ⟨law.grantOrNot, off.of_slots fun k => grantOrNot_head k s⟩) order _ ⟨law.choices n, off⟩).1
  cases w.getLsbD h.val with
  | true => exact off.enable h
  | false => exact law.disable_off off h

theorem reset_strobeLaw : State.reset.StrobeLaw := by decide

theorem Acts.strobeLaw (a : Acts s t) (law : s.ApartFrom []) (off : s.OffLaw) : t.ApartFrom [] := by
  induction a with
  | same => exact law
  | also a e ih => exact ih.of_blocks e
  | start h n idle accepted =>
    exact (law.aside (by rw [idle]; rfl) (by rw [idle]; exact fun e => by cases e)).setHead_rejoin (by simp) (by simp) rfl
  | stop h => exact law.stop h
  | abort h => exact law.abort h
  | clear h fault =>
    have notWaiting : (s.head h).state ≠ .strobeWait := by rw [fault]; exact fun e => by cases e
    exact (law.aside (by rw [fault]; rfl) notWaiting).setHead_rejoin (by simp) (by simp)
      (law.noPending notWaiting (by rw [fault]; exact fun e => by cases e))
  | reset h => exact law.reset h
  | ring h r => exact law.setHead_same rfl rfl rfl
  | drops h n => exact law.setHead_same rfl rfl rfl
  | headEn w => exact law.headEn off w
  | enable h on => exact law.headSet off h on
  | asserts src time heads e => exact (law.of_blocks e).asserts src time heads
  | releases n e => exact (law.of_blocks e).releases n
  | delay h => exact law.delayExpires h
  | ends h overrun exposing => exact law.ends exposing overrun
  | spacing h => exact law.spacingExpires h
  | strobeWait h => exact law.strobeWaitExpires h
  | retry h pacing =>
    have notWaiting : (s.head h).state ≠ .strobeWait := by rw [pacing]; exact fun e => by cases e
    exact (law.aside (by rw [pacing]; rfl) notWaiting).pacing
      (law.noPending notWaiting (by rw [pacing]; exact fun e => by cases e))
  | strobe n enable low => exact law.strobeSet n enable low
  | strobeCfg w => exact law.strobeCfg w
  | grant e => exact (law.of_blocks e).grant
  | complete tag status level => exact law.takes tag status level
  | timeout => exact law.timeout
  | tick => exact law.ticked
  | softReset => exact State.ApartFrom.softReset s
  | powerOn => exact State.strobeLaw_iff.1 reset_strobeLaw

theorem SameBlocks.offLaw (e : SameBlocks s t) (off : s.OffLaw) : t.OffLaw := fun k => by rw [e.head]; exact off k

theorem step_strobeLaw (e : step s = .next t) (law : s.StrobeLaw) (off : s.OffLaw) : t.StrobeLaw :=
  State.strobeLaw_iff.2 (step_acts (R := fun s t => s.ApartFrom [] → s.OffLaw → t.ApartFrom []) Acts.strobeLaw
    (fun b r law off => r (law.of_blocks b.symm) (b.symm.offLaw off)) e (State.strobeLaw_iff.1 law) off)

end Sys2Proof.Machine

namespace Sys2Proof.Proofs

open Sys2Proof.Machine

/-- Settles O55: each act keeps the law of the channels with the heads that stand apart from it. -/
theorem stepKeepsTheStrobeLaw : Obligations.StepKeepsTheStrobeLaw := fun _ _ law states e =>
  step_strobeLaw e law (.of_states states)

end Sys2Proof.Proofs
end

section
/-! PROOFS. The law of the readout arbiter, operation by operation and act by act. -/

namespace Sys2Proof.Machine

variable {s t u : State} {h k : HeadIx}

/-! ## What the law sees -/

/-- Two states with the same requests, the same active head, and the same slot and enable at every head. -/
structure SlotsStand (s t : State) : Prop where
  slot : ∀ k, (t.head k).slot = (s.head k).slot
  enabled : ∀ k, (t.head k).enabled = (s.head k).enabled
  queue : t.arb.queue = s.arb.queue
  active : t.arb.port.head? = s.arb.port.head?

namespace SlotsStand

theorem refl (s : State) : SlotsStand s s := ⟨fun _ => rfl, fun _ => rfl, rfl, rfl⟩

theorem trans (a : SlotsStand s t) (b : SlotsStand t u) : SlotsStand s u :=
  ⟨fun k => (b.slot k).trans (a.slot k), fun k => (b.enabled k).trans (a.enabled k), b.queue.trans a.queue,
    b.active.trans a.active⟩

theorem of_blocks (e : SameBlocks s t) : SlotsStand s t :=
  ⟨fun k => by rw [e.head], fun k => by rw [e.head], e.queue, e.active⟩

theorem setHead {y : Head} (slot : y.slot = (s.head h).slot) (enabled : y.enabled = (s.head h).enabled) :
    SlotsStand s (s.setHead h y) := by
  refine ⟨fun k => ?_, fun k => ?_, rfl, rfl⟩ <;> rw [head_setHead] <;> split
  · subst_vars; exact slot
  · rfl
  · subst_vars; exact enabled
  · rfl

theorem raise (e : SlotsStand s t) (bit : Word) : SlotsStand s (t.raise bit) := ⟨e.slot, e.enabled, e.queue, e.active⟩

theorem offer (s : State) (h : HeadIx) (body : Body) : SlotsStand s (offer h body s) := by
  obtain ⟨_, _, _, e⟩ := offer_frame s h body
  refine ⟨fun k => ?_, fun k => ?_, by rw [e]; rfl, by rw [e]; rfl⟩ <;> obtain ⟨_, _, _, e⟩ := offer_head h k body s <;>
    rw [e]

end SlotsStand

/-- Quiet moves leave the arbiter and every slot. -/
theorem Course.slotsStand (c : Course s t) : SlotsStand s t := by
  refine Course.induction (R := SlotsStand) .refl .trans (fun q => ?_) c
  cases q with
  | head h y goes slot => exact .setHead slot goes.enabled
  | ends h y bit goes slot => exact .trans (.setHead slot goes.enabled) (.of_blocks ⟨rfl, rfl, rfl, rfl⟩)
  | cause => exact .of_blocks ⟨rfl, rfl, rfl, rfl⟩
  | chans => exact ⟨fun _ => rfl, fun _ => rfl, rfl, rfl⟩
  | record => exact .offer ..

/-! ## The queue at a join -/

theorem joinQueue_perm (q : List HeadIx) (h : HeadIx) (p : Priority) (f : HeadIx → Bool) :
    (joinQueue q h p f).Perm (h :: q) := by
  cases p with
  | normal => exact List.perm_append_singleton h q
  | urgent =>
    refine List.perm_middle.trans (.cons h ?_)
    rw [List.takeWhile_append_dropWhile]

/-- A joined request stands behind every URGENT one, and ahead of every NORMAL one when it is URGENT itself (R113). -/
theorem joinQueue_pairwise {q : List HeadIx} {p : Priority} {f : HeadIx → Bool} {U : HeadIx → Prop}
    (ordered : q.Pairwise fun a b => U b → U a) (own : U h ↔ p = .urgent) (agree : ∀ k ∈ q, f k = true → U k) :
    (joinQueue q h p f).Pairwise fun a b => U b → U a := by
  cases p with
  | normal =>
    refine List.pairwise_append.2 ⟨ordered, List.pairwise_singleton .., fun a _ b hb hu => ?_⟩
    rw [List.mem_singleton.1 hb, own] at hu
    cases hu
  | urgent =>
    refine List.pairwise_append.2 ⟨ordered.sublist (List.takeWhile_sublist f),
      List.pairwise_cons.2 ⟨fun _ _ _ => own.2 rfl, ordered.sublist (List.dropWhile_sublist f)⟩, fun a ha b _ _ => ?_⟩
    exact agree a ((List.takeWhile_sublist f).mem ha) (List.mem_takeWhile_imp ha)

/-- What a completed group takes with it (R42, R61, step 1). -/
def Head.handed (hd : Head) (g : GroupRecord) : Completed :=
  { record := g, priority := hd.ctx.prog.priority, readoutLimit := hd.ctx.prog.readoutLimit
    fields := hd.ctx.prog.fields, aborted := false }

/-- A head whose group is handed to its slot (R61, steps 1 and 3). -/
def Head.completed (g : GroupRecord) (hd : Head) : Head :=
  { hd with
    slot := .queued (hd.handed g)
    ctx := { hd.ctx with group := none, exposuresDone := 0, groupsDone := satInc hd.ctx.groupsDone } }

/-- The state with head h's group g in its slot and its request in the queue (R61, steps 1 to 3). -/
def State.joined (s : State) (h : HeadIx) (g : GroupRecord) : State :=
  { s.setHead h ((s.head h).completed g) with
    arb := { s.arb with
      queue := joinQueue s.arb.queue h (s.head h).ctx.prog.priority fun k => decide (s.slotPriority k = .urgent) } }

theorem completeGroup_some {g : GroupRecord} (e : (s.head h).ctx.group = some g) :
    completeGroup h s = decideBurst h (s.joined h g) := by
  simp only [completeGroup, e]; rfl

theorem completeGroup_none (e : (s.head h).ctx.group = none) : completeGroup h s = s := by
  simp only [completeGroup, e]

namespace State.ArbiterLaw

theorem of_slots (law : s.ArbiterLaw) (slot : ∀ k, (t.head k).slot = (s.head k).slot) (queue : t.arb.queue = s.arb.queue)
    (active : t.arb.port.head? = s.arb.port.head?) : t.ArbiterLaw := by
  simpa only [State.ArbiterLaw, slot, queue, active] using law

theorem of_same (law : s.ArbiterLaw) (e : SlotsStand s t) : t.ArbiterLaw := law.of_slots e.slot e.queue e.active

theorem course (law : s.ArbiterLaw) (c : Course s t) : t.ArbiterLaw := law.of_same c.slotsStand

theorem of_blocks (law : s.ArbiterLaw) (e : SameBlocks s t) : t.ArbiterLaw := law.of_same (.of_blocks e)

/-- A head whose slot is not QUEUED has no request. -/
theorem notIn (law : s.ArbiterLaw) (slot : (s.head h).slot.isQueued = false) : h ∉ s.arb.queue := fun hm => by
  obtain ⟨-, hqueued, -, -⟩ := law
  rw [(hqueued h).1 hm] at slot
  cases slot

/-- A request joins for a slot that was EMPTY (R61, R113). -/
theorem join (law : s.ArbiterLaw) (empty : (s.head h).slot = .empty) {y : Head} {g : Completed}
    (slot : y.slot = .queued g) : State.ArbiterLaw { s.setHead h y with arb := { s.arb with
      queue := joinQueue s.arb.queue h g.priority fun k => decide (s.slotPriority k = .urgent) } } := by
  have notIn := law.notIn (h := h) (by rw [empty]; rfl)
  obtain ⟨hnodup, hqueued, hurgent, hactive⟩ := law
  have perm := joinQueue_perm s.arb.queue h g.priority fun k => decide (s.slotPriority k = .urgent)
  have own : (s.setHead h y).head h = y := head_setHead_self ..
  have other {k : HeadIx} (hk : k ≠ h) : (s.setHead h y).head k = s.head k := head_setHead_ne s hk y
  have elsewhere {k : HeadIx} (hk : k ∈ s.arb.queue) : k ≠ h := fun e => notIn (e ▸ hk)
  refine ⟨perm.nodup_iff.2 (List.nodup_cons.2 ⟨notIn, hnodup⟩), fun k => perm.mem_iff.trans ?_, ?_, fun k => ?_⟩
  · show k ∈ h :: s.arb.queue ↔ ((s.setHead h y).head k).slot.isQueued = true
    by_cases e : k = h
    · subst e
      rw [own, slot]
      exact ⟨fun _ => rfl, fun _ => List.mem_cons_self ..⟩
    · rw [other e, ← hqueued k, List.mem_cons]
      exact or_iff_right e
  · refine joinQueue_pairwise (U := fun k => ((s.setHead h y).head k).slot.isUrgent = true) ?_ ?_ fun k hk hu => ?_
    · exact hurgent.imp_of_mem fun ha hb hab => by rw [other (elsewhere ha), other (elsewhere hb)]; exact hab
    · rw [own, slot]
      exact decide_eq_true_iff
    · have hslot := (hqueued k).1 hk
      rw [other (elsewhere hk)]
      have class_urgent : s.slotPriority k = .urgent := of_decide_eq_true hu
      simp only [State.slotPriority] at class_urgent
      cases e : (s.head k).slot with
      | empty => rw [e] at hslot; cases hslot
      | active g => rw [e] at hslot; cases hslot
      | queued g => rw [e] at class_urgent; exact decide_eq_true class_urgent
  · show s.arb.port.head? = some k ↔ ((s.setHead h y).head k).slot.isActive = true
    rw [hactive k]
    by_cases e : k = h
    · subst e
      rw [own, slot, empty]
      exact ⟨fun e => Bool.noConfusion e, fun e => Bool.noConfusion e⟩
    · rw [other e]

/-- The front request is granted on an IDLE port (R116). -/
theorem granted (law : s.ArbiterLaw) {g : Completed} {rest : List HeadIx} (queue : s.arb.queue = h :: rest)
    (idle : s.arb.port = .idle) : (grantTo h g rest s).ArbiterLaw := by
  obtain ⟨hnodup, hqueued, hurgent, hactive⟩ := law
  rw [queue] at hnodup hurgent
  obtain ⟨hnot, hrest⟩ := List.nodup_cons.1 hnodup
  have own : (grantTo h g rest s).head h = { s.head h with slot := .active g } := head_setHead_self ..
  have other {k : HeadIx} (hk : k ≠ h) : (grantTo h g rest s).head k = s.head k := head_setHead_ne s hk _
  have elsewhere {k : HeadIx} (hk : k ∈ rest) : k ≠ h := fun e => hnot (e ▸ hk)
  refine ⟨hrest, fun k => ?_, ?_, fun k => ?_⟩
  · show k ∈ rest ↔ _
    by_cases e : k = h
    · subst e
      rw [own]
      exact ⟨fun e => absurd e hnot, fun e => Bool.noConfusion e⟩
    · rw [other e, ← hqueued k, queue, List.mem_cons, or_iff_right e]
  · exact (List.pairwise_cons.1 hurgent).2.imp_of_mem fun ha hb hab => by
      rw [other (elsewhere ha), other (elsewhere hb)]; exact hab
  · show some h = some k ↔ _
    by_cases e : k = h
    · subst e
      rw [own]
      exact ⟨fun _ => rfl, fun _ => rfl⟩
    · rw [other e, ← hactive k, idle]
      exact ⟨fun eh => absurd (Option.some.inj eh).symm e, fun eh => by cases eh⟩

/-- A slot becomes EMPTY and its request, if it had one, leaves the queue; the port stays, or was its own and is IDLE. -/
theorem vacated (law : s.ArbiterLaw) {y : Head} (slot : y.slot = .empty) {a : Arbiter}
    (queue : a.queue = s.arb.queue.filter fun k => decide (k ≠ h))
    (port : ∀ k, a.port.head? = some k ↔ s.arb.port.head? = some k ∧ k ≠ h) :
    State.ArbiterLaw { s.setHead h y with arb := a } := by
  obtain ⟨hnodup, hqueued, hurgent, hactive⟩ := law
  have own : (s.setHead h y).head h = y := head_setHead_self ..
  have other {k : HeadIx} (hk : k ≠ h) : (s.setHead h y).head k = s.head k := head_setHead_ne s hk y
  have member {k : HeadIx} : k ∈ a.queue ↔ k ∈ s.arb.queue ∧ k ≠ h := by
    rw [queue, List.mem_filter, decide_eq_true_iff]
  refine ⟨queue ▸ hnodup.filter _, fun k => member.trans ?_, ?_, fun k => (port k).trans ?_⟩
  · show _ ↔ ((s.setHead h y).head k).slot.isQueued = true
    by_cases e : k = h
    · subst e
      rw [own, slot]
      exact ⟨fun e => absurd rfl e.2, fun e => Bool.noConfusion e⟩
    · rw [other e, hqueued k]
      exact and_iff_left e
  · show a.queue.Pairwise fun a b => ((s.setHead h y).head b).slot.isUrgent = true
      → ((s.setHead h y).head a).slot.isUrgent = true
    exact (queue ▸ hurgent.filter _ : a.queue.Pairwise _).imp_of_mem fun ha hb hab => by
      rw [other (member.1 ha).2, other (member.1 hb).2]; exact hab
  · show _ ↔ ((s.setHead h y).head k).slot.isActive = true
    by_cases e : k = h
    · subst e
      rw [own, slot]
      exact ⟨fun e => absurd rfl e.2, fun e => Bool.noConfusion e⟩
    · rw [other e, hactive k]
      exact and_iff_left e

/-- A queue without a request of head h is not changed by its removal. -/
theorem filter_queue (notIn : h ∉ s.arb.queue) : s.arb.queue = s.arb.queue.filter fun k => decide (k ≠ h) :=
  (List.filter_eq_self.2 fun k hk => by simpa using fun e : k = h => notIn (e ▸ hk)).symm

theorem removed (law : s.ArbiterLaw) (queued : (s.head h).slot.isQueued = true) : (removeRequest h s).ArbiterLaw := by
  refine law.vacated rfl rfl fun k => ⟨fun e => ⟨e, ?_⟩, fun e => e.1⟩
  obtain ⟨-, -, -, hactive⟩ := law
  rintro rfl
  have active := (hactive k).1 e
  cases hs : (s.head k).slot with
  | empty => rw [hs] at queued; cases queued
  | queued g => rw [hs] at active; cases active
  | active g => rw [hs] at queued; cases queued

theorem freed (law : s.ArbiterLaw) (busy : s.arb.port.head? = some h) : (freePort h s).ArbiterLaw := by
  have active : (s.head h).slot.isActive = true := by
    obtain ⟨-, -, -, hactive⟩ := law
    exact (hactive h).1 busy
  refine law.vacated rfl (filter_queue (law.notIn ?_)) fun k => ?_
  · cases hs : (s.head h).slot with
    | empty => rfl
    | queued g => rw [hs] at active; cases active
    | active g => rfl
  · rw [busy]
    exact ⟨fun e => (by cases e), fun e => absurd (Option.some.inj e.1).symm e.2⟩

/-! ## Grants -/

theorem grant (law : s.ArbiterLaw) : (tryGrant s).ArbiterLaw := by
  obtain e | ⟨k, g, rest, queue, idle, -, e⟩ := tryGrant_slot_frame s <;> rw [e]
  · exact law
  · exact law.granted queue idle

theorem choices (law : s.ArbiterLaw) (n : Nat) : State.ArbiterLaw { s with choices := n } := law

theorem grantOrNot (law : s.ArbiterLaw) : (Machine.grantOrNot s).ArbiterLaw := by
  obtain ⟨-, e⟩ | ⟨-, e | e⟩ := grantOrNot_cases s <;> rw [e]
  · exact law
  · exact law.choices _
  · exact (law.choices _).grant

/-! ## Groups, aborts, resets -/

theorem complete (law : s.ArbiterLaw) (empty : (s.head h).slot = .empty) : (completeGroup h s).ArbiterLaw := by
  cases e : (s.head h).ctx.group with
  | none => rwa [completeGroup_none e]
  | some g =>
    rw [completeGroup_some e]
    have joined : (s.joined h g).ArbiterLaw := law.join empty (y := (s.head h).completed g) (g := (s.head h).handed g) rfl
    exact joined.course (decideBurst_course _ h)

theorem ends (law : s.ArbiterLaw) (overrun : Bool) : (endCondition h overrun s).ArbiterLaw := by
  have closing : (s.setHead h ((s.head h).closing overrun)).ArbiterLaw := law.of_same (.setHead rfl rfl)
  have ended := closing.course (endExposure_course _ h)
  have armed := ended.of_same (.setHead (h := h)
    (y := ((endExposure h (s.setHead h ((s.head h).closing overrun))).head h).nextExposure) rfl rfl)
  obtain ⟨-, empty, e⟩ | ⟨-, -, e⟩ | ⟨-, e⟩ := endCondition_cases h overrun s <;> rw [e]
  · refine ended.complete ?_
    rw [(endExposure_course _ h).slotsStand.slot, head_setHead_self]
    exact empty
  · exact law.of_same (.setHead rfl rfl)
  · split
    · exact armed
    · exact armed.course (enterPacing_course _ h)

theorem abort (law : s.ArbiterLaw) (h : HeadIx) : (abortHead h s).ArbiterLaw := by
  have torn := law.course (teardown_course s h)
  have slotted : (abortSlot h (teardown h s)).2.ArbiterLaw := by
    simp only [abortSlot]
    split
    · exact torn
    · rename_i g slot
      exact torn.removed (by rw [slot]; rfl)
    · rename_i g slot
      obtain ⟨hnodup, hqueued, hurgent, hactive⟩ := torn
      have kept (k : HeadIx) :
          (((teardown h s).modHead h fun hd => { hd with slot := .active { g with aborted := true } }).head
          k).slot = if k = h then .active { g with aborted := true } else ((teardown h s).head k).slot := by
        rw [modHead_eq_setHead, head_setHead]; split <;> rfl
      have seen (k : HeadIx) : ((if k = h then .active { g with aborted := true }
          else ((teardown h s).head k).slot) : Slot).isQueued = ((teardown h s).head k).slot.isQueued
          ∧ ((if k = h then .active { g with aborted := true }
          else ((teardown h s).head k).slot) : Slot).isActive = ((teardown h s).head k).slot.isActive
          ∧ ((if k = h then .active { g with aborted := true }
          else ((teardown h s).head k).slot) : Slot).isUrgent = ((teardown h s).head k).slot.isUrgent := by
        split
        · subst_vars; rw [slot]; exact ⟨rfl, rfl, rfl⟩
        · exact ⟨rfl, rfl, rfl⟩
      simp only [State.ArbiterLaw, kept, seen]
      exact ⟨hnodup, hqueued, hurgent, hactive⟩
  have offered (body : Body) := slotted.course (offer_course (abortSlot h (teardown h s)).2 h body)
  simp only [abortHead]
  split
  · exact law
  · exact law
  · exact law
  all_goals exact (offered _).course (abortState_course _ h _)

/-- The slot's part of a HEAD_RESET leaves the slot EMPTY. -/
theorem slotReset (law : s.ArbiterLaw) (h : HeadIx) :
    (resetSlot h s).ArbiterLaw ∧ ((resetSlot h s).head h).slot = .empty := by
  simp only [resetSlot]
  split
  · exact ⟨law, ‹_›⟩
  · rename_i g slot
    exact ⟨law.removed (by rw [slot]; rfl), congrArg Head.slot (head_setHead_self ..)⟩
  · rename_i g slot
    have busy : s.arb.port.head? = some h := by
      obtain ⟨-, -, -, hactive⟩ := law
      exact (hactive h).2 (by rw [slot]; rfl)
    have freed := law.freed busy
    simp only [cancelReadout]
    split
    · rename_i k tag left port
      rw [port] at busy
      rw [if_pos (Option.some.inj busy)]
      exact ⟨freed, congrArg Head.slot (head_setHead_self ..)⟩
    · rename_i port
      rw [port] at busy
      cases busy

theorem reset (law : s.ArbiterLaw) (h : HeadIx) : (headReset h s).ArbiterLaw := by
  obtain ⟨slotted, empty⟩ := (law.course (teardown_course s h)).slotReset h
  exact slotted.of_same (.setHead empty.symm rfl)

/-! ## Events and completions -/

theorem released (law : s.ArbiterLaw) (n : LineIx) (h : HeadIx) : (receiveRelease n h s).ArbiterLaw := by
  simp only [receiveRelease]
  repeat' split
  · exact law.course (shortStart_course s h n)
  · exact law.course (shortStart_course s h n)
  · exact law.ends false
  all_goals exact law

theorem asserts (law : s.ArbiterLaw) (src : Source) (time : Stamp) (heads : List HeadIx) :
    (deliverAssert src time heads s).ArbiterLaw := by
  obtain ⟨order, n, -, e⟩ := deliverAssert_spec s src time heads
  rw [e]
  exact List.foldlRecOn (motive := fun s : State => s.ArbiterLaw) order _ (law.choices n)
    fun s a h _ => a.course (receiveAssert_course s h src time)

theorem releases (law : s.ArbiterLaw) (n : LineIx) : (deliverRelease n s).ArbiterLaw := by
  obtain ⟨order, k, -, e⟩ := deliverRelease_spec s n
  rw [e]
  exact inTurn_induction (P := State.ArbiterLaw) (fun h _ a => a.released n h) (fun _ a => a.grantOrNot) order _
    (law.choices k)

/-- A grant within an event leaves a slot that is EMPTY. -/
theorem grantOrNot_empty (empty : (s.head h).slot = .empty) :
    ((Machine.grantOrNot s).head h).slot = .empty := by
  obtain ⟨-, e⟩ | ⟨-, e | e⟩ := grantOrNot_cases s <;> rw [e]
  · exact empty
  · exact empty
  · obtain e | ⟨k, g, rest, -, -, slot, e⟩ := tryGrant_slot_frame { s with choices := s.choices + 1 } <;> rw [e]
    · exact empty
    · have hne : h ≠ k := fun e => by
        have queued : (s.head k).slot = .queued g := slot
        rw [← e, empty] at queued
        cases queued
      exact (congrArg Head.slot (head_setHead_ne _ hne _)).trans empty

theorem emptied (law : s.ArbiterLaw) (empty : (s.head h).slot = .empty) : (slotEmptied h s).ArbiterLaw := by
  simp only [slotEmptied]
  split
  · exact law.of_same ((SlotsStand.setHead (h := h) (y := { s.head h with state := .idle }) rfl rfl).raise (doneBit h))
  · exact law.course (leaveBlocked_course s h)
  · refine (law.course (endExposure_course s h)).complete ?_
    rw [(endExposure_course s h).slotsStand.slot]
    exact empty
  all_goals exact law

theorem notified (law : s.ArbiterLaw) (empty : (s.head h).slot = .empty) : (notifyEmptied h s).ArbiterLaw := by
  simp only [notifyEmptied]
  split
  · exact law.grantOrNot.emptied (grantOrNot_empty empty)
  · exact law.emptied empty

theorem captured (law : s.ArbiterLaw) (busy : s.arb.port.head? = some h) (status : Status) (level : Word) :
    (captureReadout h status level s).ArbiterLaw := by
  have freed {t : State} (e : SlotsStand s t) : (notifyEmptied h (freePort h t)).ArbiterLaw :=
    ((law.of_same e).freed (e.active.trans busy)).notified (congrArg Head.slot (head_setHead_self ..))
  simp only [captureReadout]
  split
  · exact freed (.offer ..)
  all_goals exact freed (.refl s)

theorem takes (law : s.ArbiterLaw) (tag : Byte) (status : Status) (level : Word) :
    (takeComplete tag status level s).ArbiterLaw := by
  simp only [takeComplete]
  split
  · exact law
  rename_i h active left port
  have busy : s.arb.port.head? = some h := by rw [port]; rfl
  repeat' split
  · exact law.captured busy _ _
  · exact law.captured busy _ _
  · exact (law.freed busy).course (headFault_course _ h _)
  · exact law

theorem timeout (law : s.ArbiterLaw) : (expireReadout s).ArbiterLaw := by
  simp only [expireReadout]
  split
  · rename_i h tag port
    have passed : (passMessage (.cancel tag) s).ArbiterLaw := law
    exact (passed.freed (by rw [passMessage_arb, port]; rfl)).course (headFault_course _ h _)
  all_goals exact law

/-! ## HEAD_EN, resets, the tick -/

theorem setHead (law : s.ArbiterLaw) {y : Head} (slot : y.slot = (s.head h).slot) : (s.setHead h y).ArbiterLaw := by
  refine law.of_slots (fun k => ?_) rfl rfl
  rw [head_setHead]
  split
  · subst_vars; exact slot
  · rfl

theorem disabled (law : s.ArbiterLaw) (h : HeadIx) : (disableHead h s).ArbiterLaw := by
  simp only [disableHead]
  split
  · exact (law.reset h).setHead rfl
  · exact law

theorem enabled (law : s.ArbiterLaw) (off : (s.head h).enabled = false → (s.head h).slot = .empty) :
    (enableHead h s).ArbiterLaw := by
  cases on : (s.head h).enabled with
  | true => rwa [enableHead_on s h on]
  | false =>
    rw [enableHead_off s h on]
    exact law.setHead (off on).symm

end State.ArbiterLaw

/-- A head that is not enabled has an EMPTY slot (R36). -/
abbrev State.OffEmpty (s : State) : Prop := ∀ k : HeadIx, (s.head k).enabled = false → (s.head k).slot = .empty

namespace State.OffEmpty

theorem enable (off : s.OffEmpty) (h : HeadIx) : (enableHead h s).OffEmpty := fun k hk => by
  cases on : (s.head h).enabled with
  | true => rw [enableHead_on s h on] at hk ⊢; exact off k hk
  | false =>
    rw [enableHead_off s h on, head_setHead] at hk ⊢
    split at hk
    · cases hk
    · rw [if_neg ‹_›]; exact off k hk

theorem disable (off : s.OffEmpty) (h : HeadIx) : (disableHead h s).OffEmpty := fun k hk => by
  cases on : (s.head h).enabled with
  | false => rw [disableHead_off s h on] at hk ⊢; exact off k hk
  | true =>
    by_cases e : k = h
    · subst e; rw [disableHead_head s k on, headReset_head]; rfl
    · have stands := (releaseStrobe_course s h).slotsStand
      rw [disableHead_head_ne s h e on, headReset_head_release e] at hk ⊢
      rw [stands.slot]
      exact off k (stands.enabled k ▸ hk)

theorem grantOrNot (off : s.OffEmpty) : (Machine.grantOrNot s).OffEmpty := fun k hk => by
  obtain ⟨_, e⟩ := grantOrNot_head k s
  refine State.ArbiterLaw.grantOrNot_empty (off k ?_)
  rw [e] at hk
  exact hk

end State.OffEmpty

namespace State.ArbiterLaw

theorem headEn (law : s.ArbiterLaw) (off : s.OffEmpty) (w : Word) : (writeHeadEn w s).ArbiterLaw := by
  obtain ⟨order, n, -, e⟩ := writeHeadEn_spec s w
  rw [e]
  refine (inTurn_induction (P := fun s => s.ArbiterLaw ∧ s.OffEmpty) (fun h s ⟨law, off⟩ => ?_)
    (fun _ ⟨law, off⟩ => ⟨law.grantOrNot, off.grantOrNot⟩) order _ ⟨law.choices n, off⟩).1
  cases w.getLsbD h.val with
  | true => exact ⟨law.enabled (off h), off.enable h⟩
  | false => exact ⟨law.disabled h, off.disable h⟩

theorem softReset (s : State) : (Machine.softReset s).ArbiterLaw := by
  have slot (k : HeadIx) : ((Machine.softReset s).head k).slot = .empty := by rw [head_softReset]; rfl
  refine ⟨List.nodup_nil, fun k => ?_, List.Pairwise.nil, fun k => ?_⟩ <;> rw [slot]
  · exact ⟨fun e => (by cases e), fun e => by cases e⟩
  · exact ⟨fun e => (by cases e), fun e => by cases e⟩

theorem tick (law : s.ArbiterLaw) : (tickEnd s).ArbiterLaw := by
  refine law.of_slots (fun k => by rw [head_tickEnd]; rfl) rfl ?_
  show s.arb.port.tick.head? = _
  cases s.arb.port <;> rfl

end State.ArbiterLaw

theorem reset_arbiterLaw : State.reset.ArbiterLaw := by decide

theorem Acts.arbiterLaw (a : Acts s t) (law : s.ArbiterLaw) (off : s.OffEmpty) : t.ArbiterLaw := by
  induction a with
  | same => exact law
  | also a e ih => exact ih.of_blocks e
  | start h n idle accepted => exact law.setHead rfl
  | stop h => exact law.course (stopHead_course s h)
  | abort h => exact law.abort h
  | clear h fault => exact law.setHead rfl
  | reset h => exact law.reset h
  | ring h r => exact law.setHead rfl
  | drops h n => exact law.setHead rfl
  | headEn w => exact law.headEn off w
  | enable h on =>
    cases on with
    | true => exact law.enabled (off h)
    | false => exact law.disabled h
  | asserts src time heads e => exact (law.of_blocks e).asserts src time heads
  | releases n e => exact (law.of_blocks e).releases n
  | delay h => exact law.course (expireDelay_course s h)
  | ends h overrun exposing => exact law.ends overrun
  | spacing h => exact law.course (expireSpacing_course s h)
  | strobeWait h => exact law.course (expireStrobeWait_course s h)
  | retry h pacing => exact law.course (enterPacing_course s h)
  | strobe n enable low => exact law.course (setStrobe_course s n enable low)
  | strobeCfg w => exact law.course (writeStrobeCfg_course s w)
  | grant e => exact (law.of_blocks e).grant
  | complete tag status level => exact law.takes tag status level
  | timeout => exact law.timeout
  | tick => exact law.tick
  | softReset => exact State.ArbiterLaw.softReset s
  | powerOn => exact reset_arbiterLaw

end Sys2Proof.Machine
end

section
/-! PROOFS. The laws of a head, state by state: what its context, its timers and its slot come to in each of the eleven
states. -/

namespace Sys2Proof.Machine

namespace Head

/-- A pending start is present exactly in DELAY and STROBE_WAIT (R40): the strobe law's part of a head. -/
abbrev PendingLaw (hd : Head) : Prop :=
  hd.ctx.pendingStart.isSome = true ↔ hd.state = .delay ∨ hd.state = .strobeWait

/-- The laws of one head together. -/
structure Law (hd : Head) : Prop where
  state : hd.StateLaw
  pending : hd.PendingLaw
  context : hd.ContextLaw

/-- A head outside a burst: nothing in its context but the program, every timer stopped. -/
structure Rests (hd : Head) : Prop where
  group : hd.ctx.group = none
  exposures : hd.ctx.exposuresDone = 0
  pending : hd.ctx.pendingStart = none
  startLine : hd.ctx.startLine = none
  spacing : hd.ctx.spacing = .stopped
  latch : hd.ctx.latch = none
  stop : hd.ctx.stopPending = false
  timers : hd.timers = HeadTimers.stopped

/-- A head in a burst, in whatever state. -/
structure Bursts (hd : Head) : Prop where
  enabled : hd.enabled = true
  accepted : validate ⟨true, hd.ctx.prog⟩ = none
  exposures : hd.ctx.exposuresDone.toNat < hd.ctx.prog.accumulate.toNat
  groups : hd.ctx.prog.burst ≠ 0 → hd.ctx.groupsDone.toNat < hd.ctx.prog.burst.toNat
  closed : hd.ctx.group = none → hd.ctx.exposuresDone = 0
  stop : hd.ctx.stopPending = true → hd.ctx.group.isSome = true
  timed : hd.ctx.spacing ≠ .stopped → hd.ctx.prog.repetition = .timer

/-- A head in a burst outside BLOCKED: a STRICT one has an EMPTY slot, and no trigger is latched. -/
structure Runs (hd : Head) : Prop extends hd.Bursts where
  strict : hd.ctx.prog.overlap = .strict → hd.slot = .empty
  latch : hd.ctx.latch = none

/-- The starting source is named exactly under WIDTH. -/
abbrev Sourced (hd : Head) : Prop := hd.ctx.startLine.isSome = true ↔ hd.ctx.prog.length = .width

/-- A head that runs with a start pending, ready to expose. -/
structure Ready (hd : Head) (p : PendingStart) : Prop extends hd.Runs where
  pending : hd.ctx.pendingStart = some p
  sourced : hd.Sourced
  paced : p.kind = .paced → hd.ctx.spacing = .expired p.latency p.arrival
  unpaced : p.kind ≠ .paced → hd.ctx.spacing = .stopped

/-- A head that runs through an exposure has its spacing timer in use under TIMER. -/
abbrev Spaced (hd : Head) : Prop := hd.ctx.prog.repetition = .timer → hd.ctx.spacing ≠ .stopped

variable {hd : Head}

theorem timers_stopped_iff (t : HeadTimers) : t = HeadTimers.stopped ↔ t.delay = none ∧ t.integration = none
    ∧ t.widthLimit = none ∧ t.strobeWait = none ∧ t.exposure = none ∧ t.retry = .none := by
  cases t
  simp [HeadTimers.stopped]

/-! ## What the laws give in a state -/

namespace Law

theorem bursts (law : hd.Law) (running : hd.state.running = true) : hd.Bursts := by
  obtain ⟨⟨henabled, -, -⟩, -, hcount, ⟨-, -, hclosed, -, hstop⟩, -, -, hspacing, -⟩ := law
  obtain ⟨haccepted, hexposures, hgroups⟩ := hcount running
  exact ⟨henabled.2 fun e => (by rw [e] at running; cases running), haccepted, hexposures, hgroups, hclosed, hstop,
    fun e => (hspacing e).2⟩

theorem runs (law : hd.Law) (running : hd.state.running = true) (notBlocked : hd.state ≠ .blocked) : hd.Runs := by
  have bursts := law.bursts running
  obtain ⟨-, -, -, -, ⟨hstrict, -⟩, ⟨-, -, -, -, -, -, hlatch, -⟩, -⟩ := law
  refine ⟨bursts, fun e => hstrict e running notBlocked, ?_⟩
  exact Option.eq_none_iff_forall_not_mem.2 fun l hl => notBlocked (hlatch l hl).1

theorem noPending (law : hd.Law) (notDelay : hd.state ≠ .delay) (notWaiting : hd.state ≠ .strobeWait) :
    hd.ctx.pendingStart = none :=
  Option.not_isSome_iff_eq_none.1 fun e => (law.pending.1 e).elim notDelay notWaiting

theorem noSource (law : hd.Law) (notDelay : hd.state ≠ .delay) (notWaiting : hd.state ≠ .strobeWait)
    (notExposing : hd.state ≠ .exposing) : hd.ctx.startLine = none := by
  obtain ⟨-, -, -, -, -, ⟨-, -, -, -, -, -, -, hsource⟩, -⟩ := law
  exact Option.not_isSome_iff_eq_none.1 fun e => (hsource.1 e).2.elim notDelay (·.elim notWaiting notExposing)

theorem sourced (law : hd.Law) (state : hd.state = .delay ∨ hd.state = .strobeWait ∨ hd.state = .exposing) :
    hd.Sourced := by
  obtain ⟨-, -, -, -, -, ⟨-, -, -, -, -, -, -, hsource⟩, -⟩ := law
  exact hsource.trans (and_iff_left state)

theorem noGroup (law : hd.Law) (closed : hd.state.running = false ∨ hd.state = .blocked) : hd.ctx.group = none := by
  obtain ⟨-, -, -, ⟨-, hgroup, -⟩, -⟩ := law
  refine Option.not_isSome_iff_eq_none.1 fun e => ?_
  obtain ⟨hrunning, hblocked⟩ := hgroup e
  obtain e | e := closed
  · rw [e] at hrunning; cases hrunning
  · exact hblocked e

theorem group (law : hd.Law) (exposes : hd.state.exposes = true) : hd.ctx.group.isSome = true := by
  obtain ⟨-, -, -, ⟨hgroup, -⟩, -⟩ := law
  exact hgroup exposes

theorem exposures (law : hd.Law) (closed : hd.ctx.group = none) : hd.ctx.exposuresDone = 0 := by
  obtain ⟨-, -, -, ⟨-, -, hclosed, -⟩, -⟩ := law
  exact hclosed closed

theorem spaced (law : hd.Law) (exposes : hd.state.exposes = true) : hd.Spaced := by
  obtain ⟨-, -, -, -, -, -, -, -, -, -, hspaced, -⟩ := law
  exact hspaced exposes

/-- A head with a start pending is ready to expose. -/
theorem ready (law : hd.Law) {p : PendingStart} (pending : hd.ctx.pendingStart = some p) : hd.Ready p := by
  have state := law.pending.1 (Option.isSome_iff_exists.2 ⟨p, pending⟩)
  have runs : hd.Runs := by
    refine law.runs ?_ ?_ <;> obtain e | e := state <;> rw [e]
    · rfl
    · rfl
    · exact fun e => by cases e
    · exact fun e => by cases e
  have sourced := law.sourced (state.imp_right .inl)
  obtain ⟨-, -, -, -, -, -, -, -, -, -, -, hpending⟩ := law
  obtain ⟨hpaced, hunpaced⟩ := hpending p pending
  exact ⟨runs, pending, sourced, hpaced, hunpaced⟩

theorem enabled (law : hd.Law) (on : hd.state ≠ .off) : hd.enabled = true := law.state.1.2 on

theorem empty (law : hd.Law) (state : hd.state = .off ∨ hd.state = .idle ∨ hd.state = .fault) : hd.slot = .empty :=
  law.state.2.1 state

theorem full (law : hd.Law) (state : hd.state = .blocked ∨ hd.state = .extending) : hd.slot ≠ .empty := law.state.2.2 state

end Law

/-! ## What a state needs for the laws -/

/-- The laws of a head outside a burst. -/
theorem Rests.law (r : hd.Rests) (rest : hd.state.running = false) (enabled : hd.enabled = true ↔ hd.state ≠ .off)
    (slot : hd.state ≠ .draining → hd.slot = .empty) : hd.Law := by
  obtain ⟨hgroup, hexposures, hpending, hstart, hspacing, hlatch, hstop, htimers⟩ := r
  cases state : hd.state with
  | off | idle | draining | fault =>
    constructor <;> simp_all [StateLaw, PendingLaw, ContextLaw, CountLaw, GroupLaw, OverlapLaw, TimerLaw, SpacingLaw,
      HeadTimers.stopped, ExpState.running, ExpState.exposes]
  | armed | pacing | delay | strobeWait | exposing | extending | blocked => rw [state] at rest; cases rest

namespace Runs

theorem armed (r : hd.Runs) (state : hd.state = .armed) (startLine : hd.ctx.startLine = none)
    (pending : hd.ctx.pendingStart = none) (spacing : hd.ctx.spacing = .stopped)
    (timers : hd.timers = HeadTimers.stopped) : hd.Law := by
  obtain ⟨⟨henabled, haccepted, hexposures, hgroups, hclosed, hstop, htimed⟩, hstrict, hlatch⟩ := r
  constructor <;> simp_all [StateLaw, PendingLaw, ContextLaw, CountLaw, GroupLaw, OverlapLaw, TimerLaw, SpacingLaw,
    HeadTimers.stopped, ExpState.running, ExpState.exposes]

theorem pacing (r : hd.Runs) (state : hd.state = .pacing) (startLine : hd.ctx.startLine = none)
    (pending : hd.ctx.pendingStart = none) (spacing : hd.ctx.spacing ≠ .stopped)
    (running : hd.timers.retry = .none → hd.ctx.spacing.isRunning = true)
    (timers : ∃ r, hd.timers = { HeadTimers.stopped with retry := r }) : hd.Law := by
  obtain ⟨⟨henabled, haccepted, hexposures, hgroups, hclosed, hstop, htimed⟩, hstrict, hlatch⟩ := r
  obtain ⟨r, htimers⟩ := timers
  constructor <;> simp_all [StateLaw, PendingLaw, ContextLaw, CountLaw, GroupLaw, OverlapLaw, TimerLaw, SpacingLaw,
    HeadTimers.stopped, ExpState.running, ExpState.exposes]

theorem exposing (r : hd.Runs) (state : hd.state = .exposing) (sourced : hd.Sourced)
    (pending : hd.ctx.pendingStart = none) (spaced : hd.Spaced) (group : hd.ctx.group.isSome = true)
    (timers : hd.timers.delay = none ∧ hd.timers.strobeWait = none ∧ hd.timers.exposure.isSome = true
      ∧ hd.timers.retry = .none) (integration : hd.timers.integration.isSome = true ↔ hd.ctx.prog.length = .timed)
    (widthLimit : hd.timers.widthLimit.isSome = true ↔ hd.ctx.prog.length = .width) : hd.Law := by
  obtain ⟨⟨henabled, haccepted, hexposures, hgroups, hclosed, hstop, htimed⟩, hstrict, hlatch⟩ := r
  obtain ⟨hdelay, hwait, hexposure, hretry⟩ := timers
  constructor <;> simp_all [StateLaw, PendingLaw, ContextLaw, CountLaw, GroupLaw, OverlapLaw, TimerLaw, SpacingLaw,
    ExpState.running, ExpState.exposes]

theorem extending (r : hd.Runs) (state : hd.state = .extending) (startLine : hd.ctx.startLine = none)
    (pending : hd.ctx.pendingStart = none) (spaced : hd.Spaced) (group : hd.ctx.group.isSome = true)
    (last : hd.ctx.lastExposure = true) (stretched : ∀ g ∈ hd.ctx.group, g.stretched = true) (full : hd.slot ≠ .empty)
    (timers : ∃ n, hd.timers = { HeadTimers.stopped with exposure := some n }) : hd.Law := by
  obtain ⟨⟨henabled, haccepted, hexposures, hgroups, hclosed, hstop, htimed⟩, hstrict, hlatch⟩ := r
  obtain ⟨n, htimers⟩ := timers
  constructor <;> simp_all [StateLaw, PendingLaw, ContextLaw, CountLaw, GroupLaw, OverlapLaw, TimerLaw, SpacingLaw,
    HeadTimers.stopped, ExpState.running, ExpState.exposes]

end Runs

theorem Ready.delay {p : PendingStart} (r : hd.Ready p) (state : hd.state = .delay)
    (timers : ∃ n, hd.timers = { HeadTimers.stopped with delay := some n }) : hd.Law := by
  obtain ⟨⟨⟨henabled, haccepted, hexposures, hgroups, hclosed, hstop, htimed⟩, hstrict, hlatch⟩, hpending, hsourced,
    hpaced, hunpaced⟩ := r
  obtain ⟨n, htimers⟩ := timers
  constructor <;> simp_all [StateLaw, PendingLaw, ContextLaw, CountLaw, GroupLaw, OverlapLaw, TimerLaw, SpacingLaw,
    HeadTimers.stopped, ExpState.running, ExpState.exposes]

theorem Ready.strobeWait {p : PendingStart} (r : hd.Ready p) (state : hd.state = .strobeWait)
    (timers : ∃ n, hd.timers = { HeadTimers.stopped with strobeWait := some n }) : hd.Law := by
  obtain ⟨⟨⟨henabled, haccepted, hexposures, hgroups, hclosed, hstop, htimed⟩, hstrict, hlatch⟩, hpending, hsourced,
    hpaced, hunpaced⟩ := r
  obtain ⟨n, htimers⟩ := timers
  constructor <;> simp_all [StateLaw, PendingLaw, ContextLaw, CountLaw, GroupLaw, OverlapLaw, TimerLaw, SpacingLaw,
    HeadTimers.stopped, ExpState.running, ExpState.exposes]

theorem Bursts.blocked (b : hd.Bursts) (state : hd.state = .blocked) (startLine : hd.ctx.startLine = none)
    (pending : hd.ctx.pendingStart = none) (group : hd.ctx.group = none) (strict : hd.ctx.prog.overlap = .strict)
    (full : hd.slot ≠ .empty) (timers : hd.timers = HeadTimers.stopped)
    (latch : ∀ l ∈ hd.ctx.latch, hd.ctx.prog.hasSource l.source = true ∧ hd.ctx.nextTriggered = true) : hd.Law := by
  obtain ⟨henabled, haccepted, hexposures, hgroups, hclosed, hstop, htimed⟩ := b
  constructor <;> simp_all [StateLaw, PendingLaw, ContextLaw, CountLaw, GroupLaw, OverlapLaw, TimerLaw, SpacingLaw,
    HeadTimers.stopped, ExpState.running, ExpState.exposes]

end Head

end Sys2Proof.Machine
end

section
/-! PROOFS. The laws of the heads, operation by operation: an operation at a head is met by what its state needs, and leaves
the laws of every head. -/

namespace Sys2Proof.Machine

/-! ## Programs that validation accepts (R16) -/

theorem validate_none {p : Program} (accepted : validate ⟨true, p⟩ = none) :
    (p.length = .width → oneLine p.sources = true ∧ p.repetition ≠ .timer) ∧ p.outOfRange = false := by
  simp only [validate] at accepted
  split at accepted
  · cases accepted
  split at accepted
  · cases accepted
  split at accepted
  · cases accepted
  rename_i oneSource
  split at accepted
  · cases accepted
  rename_i repeats
  split at accepted
  · cases accepted
  rename_i inRange
  refine ⟨fun width => ⟨?_, fun timer => repeats ⟨width, timer⟩⟩, Bool.eq_false_of_not_eq_true inRange⟩
  by_contra h
  exact oneSource ⟨width, by simpa using h⟩

theorem entry_accepted {e : Entry} (accepted : validate e = none) : validate ⟨true, e.prog⟩ = none := by
  obtain ⟨valid, p⟩ := e
  cases valid with
  | true => exact accepted
  | false => cases accepted

theorem accumulate_bounds {p : Program} (accepted : validate ⟨true, p⟩ = none) :
    0 < p.accumulate.toNat ∧ p.accumulate.toNat ≤ 16 := by
  obtain ⟨-, inRange⟩ := validate_none accepted
  simp only [Program.outOfRange, Bool.or_eq_false_iff, decide_eq_false_iff_not] at inRange
  obtain ⟨⟨⟨⟨⟨⟨-, hzero⟩, hmax⟩, -⟩, -⟩, -⟩, -⟩ := inRange
  refine ⟨Nat.pos_of_ne_zero fun e => hzero ?_, by omega⟩
  exact BitVec.eq_of_toNat_eq e

theorem not_soft_of_one : ∀ n : LineIx, ¬ (1#11 <<< n.val).getLsbD Source.soft.code = true := by decide

theorem not_rate_of_one : ∀ (n : LineIx) (m : RateIx), ¬ (1#11 <<< n.val).getLsbD (Source.rate m).code = true := by
  decide

/-- A WIDTH program's only source is a line (Table 1.3, check 3). -/
theorem width_source {p : Program} (accepted : validate ⟨true, p⟩ = none) (width : p.length = .width) {src : Source}
    (has : p.hasSource src = true) : ∃ n, src = .line n := by
  have one := ((validate_none accepted).1 width).1
  simp only [oneLine, List.any_eq_true, beq_iff_eq] at one
  obtain ⟨n, -, hn⟩ := one
  simp only [Program.hasSource, hn] at has
  cases src with
  | line m => exact ⟨m, rfl⟩
  | soft => exact absurd has (not_soft_of_one n)
  | rate m => exact absurd has (not_rate_of_one n m)

namespace Head

variable {hd : Head} {p : PendingStart}

/-- Under WIDTH, and wherever the next start is triggered, the spacing timer of a burst is stopped. -/
theorem Bursts.stopped_of_width (b : hd.Bursts) (width : hd.ctx.prog.length = .width) : hd.ctx.spacing = .stopped := by
  by_contra h
  exact ((validate_none b.accepted).1 width).2 (b.timed h)

theorem Bursts.stopped_of_trigger (b : hd.Bursts) (trigger : hd.ctx.prog.repetition = .trigger) :
    hd.ctx.spacing = .stopped := by
  by_contra h
  rw [b.timed h] at trigger
  cases trigger

theorem Bursts.stopped_of_triggered (b : hd.Bursts) (triggered : hd.ctx.nextTriggered = true) :
    hd.ctx.spacing = .stopped := by
  simp only [Context.nextTriggered, Bool.or_eq_true, decide_eq_true_eq] at triggered
  exact triggered.elim b.stopped_of_trigger id

theorem spacing_of_notTriggered (notTriggered : ¬ hd.ctx.nextTriggered = true) : hd.ctx.spacing ≠ .stopped := fun e =>
  notTriggered (by simp only [Context.nextTriggered, e, decide_true, Bool.or_true])

/-- A head that is ready exposes with its laws (R51). -/
theorem Ready.startExposure (r : hd.Ready p) (now : Stamp) (locked : Bool) : (hd.startExposure now p locked).Law := by
  have trigger := r.stopped_of_trigger
  obtain ⟨⟨⟨henabled, haccepted, hexposures, hgroups, hclosed, hstop, htimed⟩, hstrict, hlatch⟩, hpending, hsourced,
    -, -⟩ := r
  obtain ⟨g, ring, e⟩ := startExposure_frame hd now p locked
  rw [e]
  refine Runs.exposing ⟨⟨henabled, haccepted, hexposures, hgroups, fun e => (by cases e), fun _ => rfl, fun e => ?_⟩,
    hstrict, hlatch⟩ rfl hsourced rfl (fun e => ?_) rfl ⟨rfl, rfl, rfl, rfl⟩ ?_ ?_ <;> dsimp only at *
  · split at e
    · assumption
    · exact htimed e
  · rw [e]
    exact fun e => by cases e
  · split <;> simp_all
  · split <;> simp_all

theorem Law.marks (law : hd.Law) (ring : HeadRing) (drops seq lost : Word) (restart : Bool) :
    Law { hd with ring := ring, drops := drops, seq := seq, lost := lost, restart := restart } :=
  ⟨law.state, law.pending, law.context⟩

end Head

/-! ## All heads, and all but one -/

/-- Every head keeps its laws. -/
abbrev State.Laws (s : State) : Prop := ∀ k : HeadIx, (s.head k).Law

/-- Every head but h keeps its laws. -/
abbrev State.LawsBut (s : State) (h : HeadIx) : Prop := ∀ k : HeadIx, k ≠ h → (s.head k).Law

variable {s t : State} {h k : HeadIx} {p : PendingStart}

theorem State.Laws.but (laws : s.Laws) (h : HeadIx) : s.LawsBut h := fun k _ => laws k

theorem State.Laws.raise (laws : s.Laws) (bit : Word) : (s.raise bit).Laws := laws

theorem State.Laws.offer (laws : s.Laws) (h : HeadIx) (body : Body) : (Machine.offer h body s).Laws := fun k => by
  obtain ⟨_, _, _, e⟩ := offer_head h k body s
  rw [e]
  exact (laws k).marks _ _ _ _ _

theorem State.Laws.drop (laws : s.Laws) (h : HeadIx) (r : DropReason) (src : Option Source) (time : Stamp) :
    (dropTrigger h r src time s).Laws := fun k => by
  obtain ⟨_, _, _, _, e⟩ := dropTrigger_head h k r src time s
  rw [e]
  exact (laws k).marks _ _ _ _ _

/-- The head after entering DRAINING, which it passes through with an EMPTY slot (R66, R93). -/
def Head.drained (hd : Head) : Head :=
  { hd with
    state := if hd.slot = .empty then .idle else .draining
    ctx := { hd.ctx with pendingStart := none, startLine := none, spacing := .stopped, latch := none,
                         stopPending := false }
    timers := HeadTimers.stopped
    ring := hd.ring.commitPending }

theorem enterDraining_eq (h : HeadIx) (s : State) : enterDraining h s = if (s.head h).slot = .empty
    then (s.setHead h (s.head h).drained).raise (doneBit h) else s.setHead h (s.head h).drained := by
  have own : (s.setHead h (s.head h).drained).head h = (s.head h).drained := head_setHead_self ..
  show (if ((s.setHead h (s.head h).drained).head h).slot = .empty then _ else _) = _
  rw [own]
  rfl

theorem enterDraining_head (h k : HeadIx) (s : State) : (enterDraining h s).head k
    = if k = h then (s.head h).drained else s.head k := by
  rw [enterDraining_eq, ← head_setHead]
  split <;> rfl

/-- A head with no group open ends its burst with its laws. -/
theorem Head.drained_law {hd : Head} (on : hd.enabled = true) (group : hd.ctx.group = none)
    (exposures : hd.ctx.exposuresDone = 0) : hd.drained.Law := by
  have rests : hd.drained.Rests := ⟨group, exposures, rfl, rfl, rfl, rfl, rfl, rfl⟩
  by_cases e : hd.slot = .empty
  · have state : hd.drained.state = .idle := if_pos e
    refine rests.law ?_ ?_ fun _ => e <;> rw [state]
    · rfl
    · exact ⟨fun _ => fun e => (by cases e), fun _ => on⟩
  · have state : hd.drained.state = .draining := if_neg e
    refine rests.law ?_ ?_ fun e => absurd state e <;> rw [state]
    · rfl
    · exact ⟨fun _ => fun e => (by cases e), fun _ => on⟩

/-- A head after a group completion, before the course of its burst is decided (R62). -/
structure Head.Decides (hd : Head) : Prop where
  enabled : hd.enabled = true
  accepted : validate ⟨true, hd.ctx.prog⟩ = none
  groups : hd.ctx.prog.burst ≠ 0 → hd.ctx.groupsDone.toNat ≤ hd.ctx.prog.burst.toNat
  group : hd.ctx.group = none
  exposures : hd.ctx.exposuresDone = 0
  pending : hd.ctx.pendingStart = none
  startLine : hd.ctx.startLine = none
  latch : hd.ctx.latch = none
  timed : hd.ctx.spacing ≠ .stopped → hd.ctx.prog.repetition = .timer
  spaced : hd.Spaced
  full : hd.slot ≠ .empty
  timers : hd.timers = HeadTimers.stopped

/-- A head whose last exposure of a group has ended, before its group completes (R61). -/
structure Head.Closes (hd : Head) : Prop extends hd.Runs where
  group : hd.ctx.group.isSome = true
  pending : hd.ctx.pendingStart = none
  startLine : hd.ctx.startLine = none
  spaced : hd.Spaced
  timers : hd.timers = HeadTimers.stopped

theorem satInc_le {c b : Byte} (lt : c.toNat < b.toNat) : (satInc c).toNat ≤ b.toNat := by
  have hb := b.isLt
  simp only [satInc]
  split
  · omega
  · rw [BitVec.toNat_add]
    exact (Nat.mod_le _ _).trans lt

theorem Head.Closes.completed {hd : Head} {g : GroupRecord} (c : hd.Closes) : (hd.completed g).Decides where
  enabled := c.enabled
  accepted := c.accepted
  groups burst := satInc_le (c.groups burst)
  group := rfl
  exposures := rfl
  pending := c.pending
  startLine := c.startLine
  latch := c.latch
  timed := c.timed
  spaced := c.spaced
  full := fun e => by cases e
  timers := c.timers

/-- A loaded head chains with its laws (R64). -/
theorem Head.loaded_law {hd : Head} (n : EntryIx) {p : Program} (accepted : validate ⟨true, p⟩ = none)
    (on : hd.enabled = true) (full : hd.slot ≠ .empty) : Head.Law { hd with
      state := match p.overlap with
        | .strict => .blocked
        | .overlap => .armed
      ctx := Context.load n p
      timers := HeadTimers.stopped } := by
  have bursts (state : ExpState) : Head.Bursts { hd with
      state := state, ctx := Context.load n p, timers := HeadTimers.stopped } :=
    ⟨on, accepted, (accumulate_bounds accepted).1, fun burst => Nat.pos_of_ne_zero fun e => burst (BitVec.eq_of_toNat_eq e),
      fun _ => rfl, fun e => (by cases e), fun e => absurd rfl e⟩
  cases overlap : p.overlap with
  | strict => exact (bursts .blocked).blocked rfl rfl rfl rfl overlap full rfl fun l hl => by cases hl
  | overlap =>
    exact Head.Runs.armed ⟨bursts .armed, fun e => (by rw [show p.overlap = .strict from e] at overlap; cases overlap), rfl⟩
      rfl rfl rfl rfl rfl

/-- The same for an accepted START, whose slot is EMPTY (R43). -/
theorem Head.started_law {hd : Head} (n : EntryIx) {p : Program} (accepted : validate ⟨true, p⟩ = none)
    (on : hd.enabled = true) (empty : hd.slot = .empty) :
    Head.Law { hd with state := .armed, ctx := Context.load n p, timers := HeadTimers.stopped } :=
  Head.Runs.armed ⟨⟨on, accepted, (accumulate_bounds accepted).1,
    fun burst => Nat.pos_of_ne_zero fun e => burst (BitVec.eq_of_toNat_eq e), fun _ => rfl, fun e => (by cases e),
    fun e => absurd rfl e⟩, fun _ => empty, rfl⟩ rfl rfl rfl rfl rfl

namespace State.LawsBut

theorem setHead (b : s.LawsBut h) {y : Head} (own : y.Law) : (s.setHead h y).Laws := fun k => by
  rw [head_setHead]
  split
  · exact own
  · exact b k ‹_›

theorem setOwn (b : s.LawsBut h) (y : Head) : (s.setHead h y).LawsBut h := fun k hk => by
  rw [head_setHead_ne s hk]
  exact b k hk

theorem offer (b : s.LawsBut h) (body : Body) : (Machine.offer h body s).LawsBut h := fun k hk => by
  rw [offer_head_ne s h hk]
  exact b k hk

/-! ## Exposure starts and attempts -/

theorem start (b : s.LawsBut h) (r : (s.head h).Ready p) (locked : Bool) : (startExposure h locked s).Laws := by
  rw [startExposure_some s h r.pending]
  exact b.setHead (r.startExposure s.now locked)

theorem attempt (b : s.LawsBut h) (r : (s.head h).Ready p) : (attemptStart h s).Laws := by
  simp only [attemptStart]
  split
  · exact b.start r false
  · rename_i n _
    simp only [claim]
    split
    · exact b.start r false
    split
    · exact LawsBut.start (s := s.setChan n _) b r true
    · split
      · exact b.start r false
      · refine LawsBut.setHead (s := s.setChan n _) b ?_
        exact Head.Ready.strobeWait { r with } rfl ⟨_, rfl⟩

/-- A PACED attempt of a head whose spacing timer has expired (R58). -/
theorem paced (b : s.LawsBut h) (r : (s.head h).Runs) (startLine : (s.head h).ctx.startLine = none) {n : Word}
    {time : Stamp} (spacing : (s.head h).ctx.spacing = .expired n time) : (pacedAttempt h n time s).Laws := by
  simp only [pacedAttempt, modHead_eq_setHead]
  refine (b.setOwn _).attempt (p := ⟨.paced, time, n⟩) ?_
  rw [head_setHead_self]
  refine { r with
    pending := rfl, sourced := ⟨fun e => ?_, fun width => ?_⟩, paced := fun _ => spacing, unpaced := fun e => absurd rfl e }
  · rw [show (s.head h).ctx.startLine = none from startLine] at e
    cases e
  · have stopped := r.stopped_of_width width
    rw [spacing] at stopped
    cases stopped

theorem pacing (b : s.LawsBut h) (r : (s.head h).Runs) (startLine : (s.head h).ctx.startLine = none)
    (pending : (s.head h).ctx.pendingStart = none) (spacing : (s.head h).ctx.spacing ≠ .stopped) :
    (enterPacing h s).Laws := by
  have own : (s.modHead h fun hd => { hd with state := .pacing, timers := HeadTimers.stopped }).head h
      = { s.head h with state := .pacing, timers := HeadTimers.stopped } := head_setHead_self ..
  have waits (e : (s.head h).ctx.spacing.isRunning = true) :
      (s.modHead h fun hd => { hd with state := .pacing, timers := HeadTimers.stopped }).Laws :=
    b.setHead (Head.Runs.pacing { r with } rfl startLine pending spacing (fun _ => e) ⟨.none, rfl⟩)
  simp only [enterPacing, own]
  split
  · refine (b.setOwn _).paced ?_ ?_ ?_ <;> rw [head_setHead_self]
    · exact { r with }
    · exact startLine
    · assumption
  · rename_i e
    exact waits (by rw [e]; rfl)
  · exact absurd ‹_› spacing

/-- An accepted trigger makes its start pending (R40, R44, R75). -/
theorem accept (b : s.LawsBut h) (r : (s.head h).Bursts)
    (strict : (s.head h).ctx.prog.overlap = .strict → (s.head h).slot = .empty) (spacing : (s.head h).ctx.spacing = .stopped)
    (unpaced : p.kind ≠ .paced) {src : Source} (has : (s.head h).ctx.prog.hasSource src = true) :
    (acceptStart h p src s).Laws := by
  have ready : Head.Ready { s.head h with ctx := { (s.head h).ctx with
      pendingStart := some p, startLine := (s.head h).ctx.prog.startLineFor src, latch := none } } p := by
    refine { r with
      strict := strict, latch := rfl, pending := rfl, paced := fun e => absurd e unpaced, unpaced := fun _ => spacing
      sourced := ?_ }
    show ((s.head h).ctx.prog.startLineFor src).isSome = true ↔ (s.head h).ctx.prog.length = .width
    simp only [Program.startLineFor]
    split
    · rename_i width
      obtain ⟨n, rfl⟩ := width_source r.accepted width has
      exact ⟨fun _ => width, fun _ => rfl⟩
    · rename_i timed
      rw [timed]
      exact ⟨fun e => (by cases e), fun e => by cases e⟩
  simp only [acceptStart, modHead_eq_setHead]
  split
  · refine (b.setOwn _).attempt (p := p) ?_
    rw [head_setHead_self]
    exact ready
  · refine (b.setOwn _).setHead ?_
    rw [head_setHead_self]
    exact Head.Ready.delay { ready with } rfl ⟨_, rfl⟩

/-! ## Burst ends and group completions -/

theorem drain (b : s.LawsBut h) (on : (s.head h).enabled = true) (group : (s.head h).ctx.group = none)
    (exposures : (s.head h).ctx.exposuresDone = 0) : (enterDraining h s).Laws := fun k => by
  rw [enterDraining_head]
  split
  · exact Head.drained_law on group exposures
  · exact b k ‹_›

/-- A burst's end record and its end. -/
theorem drainOffered (b : s.LawsBut h) (on : (s.head h).enabled = true) (group : (s.head h).ctx.group = none)
    (exposures : (s.head h).ctx.exposuresDone = 0) (body : Body) : (enterDraining h (Machine.offer h body s)).Laws := by
  obtain ⟨_, _, _, e⟩ := offer_head h h body s
  refine (b.offer body).drain ?_ ?_ ?_ <;> rw [e]
  · exact on
  · exact group
  · exact exposures

theorem chain (b : s.LawsBut h) (on : (s.head h).enabled = true) (group : (s.head h).ctx.group = none)
    (exposures : (s.head h).ctx.exposuresDone = 0) (full : (s.head h).slot ≠ .empty) (n : EntryIx) :
    (chainTo h n s).Laws := by
  simp only [chainTo]
  split
  · exact b.drainOffered on group exposures _
  · rename_i accepted
    refine State.Laws.offer ?_ h _
    exact b.setHead (Head.loaded_law n (entry_accepted accepted) on full)

theorem decide (b : s.LawsBut h) (d : (s.head h).Decides) : (decideBurst h s).Laws := by
  have trigger (e : (s.head h).ctx.prog.repetition = .trigger) : (s.head h).ctx.spacing = .stopped := by
    by_contra h
    rw [d.timed h] at e
    cases e
  simp only [decideBurst]
  split
  · exact b.drainOffered d.enabled d.group d.exposures _
  rename_i notStopped
  split
  · split
    · exact b.chain d.enabled d.group d.exposures d.full _
    · exact b.drainOffered d.enabled d.group d.exposures _
  rename_i notLast
  have bursts : (s.head h).Bursts :=
    ⟨d.enabled, d.accepted, by rw [d.exposures]; exact (accumulate_bounds d.accepted).1,
      fun burst => Nat.lt_of_le_of_ne (d.groups burst) fun e => notLast ⟨burst, BitVec.eq_of_toNat_eq e⟩,
      fun _ => d.exposures, fun e => absurd e notStopped, d.timed⟩
  have runs (overlap : (s.head h).ctx.prog.overlap = .overlap) : (s.head h).Runs :=
    ⟨bursts, fun e => (by rw [overlap] at e; cases e), d.latch⟩
  split
  · exact b.setHead (Head.Bursts.blocked { bursts with } rfl d.startLine d.pending d.group ‹_› d.full d.timers
      fun l hl => by rw [show (s.head h).ctx.latch = none from d.latch] at hl; cases hl)
  · rename_i overlap repetition
    exact b.setHead (Head.Runs.armed { runs overlap with } rfl d.startLine d.pending (trigger repetition) d.timers)
  · rename_i overlap repetition
    exact b.pacing (runs overlap) d.startLine d.pending (d.spaced repetition)

theorem complete (b : s.LawsBut h) (c : (s.head h).Closes) : (completeGroup h s).Laws := by
  obtain ⟨g, e⟩ := Option.isSome_iff_exists.1 c.group
  rw [completeGroup_some e]
  have own : (s.joined h g).head h = (s.head h).completed g := head_setHead_self ..
  have others : (s.joined h g).LawsBut h := b.setOwn _
  exact others.decide (own ▸ c.completed)

end State.LawsBut

end Sys2Proof.Machine
end

section
/-! PROOFS. The laws of the heads at releases, exposure ends, teardowns, resets and changes of a slot. -/

namespace Sys2Proof.Machine

variable {s t : State} {h k : HeadIx}

/-! ## One head -/

namespace Head

variable {hd : Head}

theorem Bursts.withGroup (b : hd.Bursts) {group : Option GroupRecord} (same : group.isSome = hd.ctx.group.isSome) :
    Bursts { hd with ctx := { hd.ctx with group := group } } :=
  { b with
    closed := fun e => b.closed (Option.not_isSome_iff_eq_none.1 fun is => by
      rw [← same, show group = none from e] at is
      cases is)
    stop := fun e => same.trans (b.stop e) }

theorem Runs.withGroup (r : hd.Runs) {group : Option GroupRecord} (same : group.isSome = hd.ctx.group.isSome) :
    Runs { hd with ctx := { hd.ctx with group := group } } :=
  { r.toBursts.withGroup same with strict := r.strict, latch := r.latch }

theorem Runs.ended (r : hd.Runs) : hd.ended.Runs := { r.withGroup (Option.isSome_map ..) with }

/-- An exposure that is not the last leaves room for the next (R38). -/
theorem Runs.nextExposure (r : hd.Runs) (group : hd.ctx.group.isSome = true) (notLast : hd.ctx.lastExposure = false) :
    hd.nextExposure.Runs :=
  { r with
    exposures := by
      have max := (accumulate_bounds r.accepted).2
      have below := r.exposures
      have notLast : ¬ hd.ctx.exposuresDone.toNat + 1 = hd.ctx.prog.accumulate.toNat := of_decide_eq_false notLast
      show (hd.ctx.exposuresDone + 1).toNat < hd.ctx.prog.accumulate.toNat
      rw [BitVec.toNat_add]
      exact (Nat.mod_le _ _).trans_lt (by simp; omega)
    closed := fun e => by rw [show hd.ctx.group = none from e] at group; cases group }

theorem Law.exposing_timers (law : hd.Law) (state : hd.state = .exposing) : hd.timers.delay = none
    ∧ hd.timers.strobeWait = none ∧ hd.timers.retry = .none ∧ ∃ n, hd.timers.exposure = some n := by
  obtain ⟨-, -, -, -, -, ⟨hdelay, hwait, hexposure, -, -, hretry, -⟩, -⟩ := law
  rw [state] at hdelay hwait hexposure hretry
  refine ⟨?_, ?_, ?_, Option.isSome_iff_exists.1 (hexposure.2 rfl)⟩
  · exact Option.not_isSome_iff_eq_none.1 fun e => by cases hdelay.1 e
  · exact Option.not_isSome_iff_eq_none.1 fun e => by cases hwait.1 e
  · by_contra e
    cases hretry e

/-- Outside the states that they serve the timers are stopped (R41, R102). -/
theorem Law.stopped (law : hd.Law) (notPacing : hd.state ≠ .pacing) (notDelay : hd.state ≠ .delay)
    (notWaiting : hd.state ≠ .strobeWait) (notExposes : hd.state.exposes = false) : hd.timers = HeadTimers.stopped := by
  have notExposing : hd.state ≠ .exposing := fun e => by rw [e] at notExposes; cases notExposes
  obtain ⟨-, -, -, -, -, ⟨hdelay, hwait, hexposure, hintegration, hlimit, hretry, -⟩, -⟩ := law
  refine (timers_stopped_iff _).2 ⟨?_, ?_, ?_, ?_, ?_, ?_⟩
  · exact Option.not_isSome_iff_eq_none.1 fun e => notDelay (hdelay.1 e)
  · exact Option.not_isSome_iff_eq_none.1 fun e => notExposing (hintegration.1 e).1
  · exact Option.not_isSome_iff_eq_none.1 fun e => notExposing (hlimit.1 e).1
  · exact Option.not_isSome_iff_eq_none.1 fun e => notWaiting (hwait.1 e)
  · refine Option.not_isSome_iff_eq_none.1 fun e => ?_
    have exposes := hexposure.1 e
    rw [notExposes] at exposes
    cases exposes
  · by_contra e
    exact notPacing (hretry e)

theorem Law.latch_holds (law : hd.Law) {l : Latch} (latch : hd.ctx.latch = some l) : hd.state = .blocked
    ∧ hd.ctx.prog.hasSource l.source = true ∧ hd.ctx.nextTriggered = true := by
  obtain ⟨-, -, -, -, -, ⟨-, -, -, -, -, -, hlatch, -⟩, -⟩ := law
  exact hlatch l latch

/-- A head outside a burst has nothing in its context but the program (R37, R66, R150). -/
theorem Law.rests (law : hd.Law) (rest : hd.state.running = false) : hd.Rests := by
  have notIn {e : ExpState} (running : e.running = true) : hd.state ≠ e := fun h => by
    rw [h, running] at rest; cases rest
  have notExposes : hd.state.exposes = false := by
    cases e : hd.state <;> rw [e] at rest <;> first | rfl | cases rest
  have group := law.noGroup (.inl rest)
  have noLatch : hd.ctx.latch = none :=
    Option.eq_none_iff_forall_not_mem.2 fun l hl => notIn rfl (law.latch_holds hl).1
  refine ⟨group, law.exposures group, law.noPending (notIn rfl) (notIn rfl),
    law.noSource (notIn rfl) (notIn rfl) (notIn rfl),
    ?_, noLatch, ?_, law.stopped (notIn rfl) (notIn rfl) (notIn rfl) notExposes⟩
  · obtain ⟨-, -, -, -, -, -, hspacing, -⟩ := law
    by_contra h
    have running := (hspacing h).1
    rw [rest] at running
    cases running
  · obtain ⟨-, -, -, ⟨-, -, -, -, hstop⟩, -⟩ := law
    refine Bool.eq_false_of_not_eq_true fun e => ?_
    have opened := hstop e
    rw [group] at opened
    cases opened

/-- The laws see of a slot whether it is EMPTY. -/
theorem Law.withSlot (law : hd.Law) {slot : Slot} (same : slot = .empty ↔ hd.slot = .empty) :
    Law { hd with slot := slot } := by
  obtain ⟨⟨henabled, hempty, hfull⟩, hpending, hcount, hgroup, ⟨hstrict, hblocked⟩, htimer, hspacing⟩ := law
  exact ⟨⟨henabled, fun e => same.2 (hempty e), fun e h => hfull e (same.1 h)⟩, hpending, hcount, hgroup,
    ⟨fun a b c => same.2 (hstrict a b c), hblocked⟩, htimer, hspacing⟩

/-- A slot may become EMPTY at a head that is neither BLOCKED nor EXTENDING. -/
theorem Law.vacated (law : hd.Law) (notBlocked : hd.state ≠ .blocked) (notExtending : hd.state ≠ .extending) :
    Law { hd with slot := .empty } := by
  obtain ⟨⟨henabled, -, -⟩, hpending, hcount, hgroup, ⟨-, hblocked⟩, htimer, hspacing⟩ := law
  exact ⟨⟨henabled, fun _ => rfl, fun e => e.elim (absurd · notBlocked) (absurd · notExtending)⟩, hpending, hcount, hgroup,
    ⟨fun _ _ _ => rfl, hblocked⟩, htimer, hspacing⟩

theorem Law.darken (law : hd.Law) : hd.darken.Law := by
  obtain ⟨hstate, hpending, hcount, ⟨hexposes, hopen, hclosed, hlast, hstop⟩, hoverlap, htimer, hspacing⟩ := law
  have same : hd.darken.ctx.group.isSome = hd.ctx.group.isSome := Option.isSome_map ..
  refine ⟨hstate, hpending, hcount, ⟨fun e => same.trans (hexposes e), fun e => hopen (same.symm.trans e), fun e => ?_,
    fun e => ⟨(hlast e).1, fun g hg => ?_⟩, fun e => same.trans (hstop e)⟩, hoverlap, htimer, hspacing⟩
  · exact hclosed (Option.map_eq_none_iff.1 e)
  · obtain ⟨g', hg', rfl⟩ := Option.map_eq_some_iff.1 (Option.mem_def.1 hg)
    exact (hlast e).2 g' hg'

/-- Stop-pending may be set with a group open (R153). -/
theorem Law.stopPending (law : hd.Law) (group : hd.ctx.group.isSome = true) :
    Law { hd with ctx := { hd.ctx with stopPending := true } } := by
  obtain ⟨hstate, hpending, hcount, ⟨hexposes, hopen, hclosed, hlast, -⟩, hoverlap, htimer, hspacing⟩ := law
  exact ⟨hstate, hpending, hcount, ⟨hexposes, hopen, hclosed, hlast, fun _ => group⟩, hoverlap, htimer, hspacing⟩

theorem afterReset_law (hd : Head) : hd.afterReset.Law := by
  have rests : hd.afterReset.Rests := ⟨rfl, rfl, rfl, rfl, rfl, rfl, rfl, rfl⟩
  cases on : hd.enabled with
  | true =>
    have state : hd.afterReset.state = .idle := if_pos on
    refine rests.law ?_ ⟨fun _ => ?_, fun _ => on⟩ fun _ => rfl <;> rw [state]
    · rfl
    · exact fun e => by cases e
  | false =>
    have state : hd.afterReset.state = .off := if_neg (by rw [on]; exact Bool.false_ne_true)
    refine rests.law ?_ ⟨fun e => ?_, fun e => absurd state e⟩ fun _ => rfl
    · rw [state]; rfl
    · rw [show hd.enabled = true from e] at on; cases on

theorem off_law {r : Head} (rests : r.Rests) (slot : r.slot = .empty) : Law { r with enabled := false, state := .off } :=
  Rests.law { rests with } rfl ⟨fun e => (by cases e), fun e => absurd rfl e⟩ fun _ => slot

theorem idle_law {r : Head} (rests : r.Rests) (on : r.enabled = true) (slot : r.slot = .empty) :
    Law { r with state := .idle } :=
  Rests.law { rests with } rfl ⟨fun _ => (fun e => by cases e), fun _ => on⟩ fun _ => slot

end Head

/-! ## Releases, exposure ends, teardowns -/

/-- An exposure start leaves each head's laws: a head without a start pending is left as it is. -/
theorem startExposure_law (h : HeadIx) (locked : Bool) (law : (s.head k).Law) : ((startExposure h locked s).head k).Law := by
  cases pending : (s.head h).ctx.pendingStart with
  | none => rwa [startExposure_none s h pending]
  | some p =>
    rw [startExposure_some s h pending, head_setHead]
    split
    · subst_vars; exact (law.ready pending).startExposure s.now locked
    · exact law

theorem releaseStrobe_law (h : HeadIx) (law : (s.head k).Law) : ((releaseStrobe h s).head k).Law := by
  simp only [releaseStrobe, releaseAt]
  repeat' split
  · exact startExposure_law _ _ (by rwa [head_setChan])
  · exact law
  · exact law

theorem teardown_rests (h : HeadIx) (s : State) : ((teardown h s).head h).Rests := by
  rw [teardown_head]
  exact ⟨rfl, rfl, rfl, rfl, rfl, rfl, rfl, rfl⟩

theorem offer_rests {h k : HeadIx} (rests : (s.head k).Rests) (body : Body) : ((offer h body s).head k).Rests := by
  obtain ⟨_, _, _, e⟩ := offer_head h k body s
  rw [e]
  exact { rests with }

namespace State.LawsBut

theorem endExposure (b : s.LawsBut h) : (Machine.endExposure h s).LawsBut h := fun k hk => by
  rw [endExposure_head_ne hk]
  exact releaseStrobe_law h (b k hk)

theorem teardown (b : s.LawsBut h) : (Machine.teardown h s).LawsBut h := fun k hk => by
  rw [teardown_head_ne hk]
  exact releaseStrobe_law h (b k hk)

/-- A head's last exposure of a group ends, and the group completes (R56, R61). -/
theorem completeEnded (b : s.LawsBut h) (notIn : ∀ n, h ∉ (s.chan n).waiters) (r : (s.head h).Runs)
    (group : (s.head h).ctx.group.isSome = true) (pending : (s.head h).ctx.pendingStart = none)
    (startLine : (s.head h).ctx.startLine = none) (spaced : (s.head h).Spaced) :
    (completeGroup h (Machine.endExposure h s)).Laws := by
  refine b.endExposure.complete ?_
  rw [endExposure_head notIn]
  exact { r.withGroup (Option.isSome_map ..) with
    group := (Option.isSome_map ..).trans group, pending := pending, startLine := startLine,
    spaced := spaced, timers := rfl }

theorem fault (b : s.LawsBut h) (on : (s.head h).enabled = true) (empty : (s.head h).slot = .empty) (code : FaultCode) :
    (headFault h code s).Laws := by
  have stands := (teardown_course s h).slotsStand.trans
    (.offer (Machine.teardown h s) h (.fault code (s.head h).discarded s.now))
  refine LawsBut.setHead (s := State.raise _ _) (b.teardown.offer _) ?_
  refine Head.Rests.law { offer_rests (teardown_rests h s) (.fault code (s.head h).discarded s.now) with } rfl
    ⟨fun _ => (fun e => by cases e), fun _ => (stands.enabled h).trans on⟩ fun _ => (stands.slot h).trans empty

theorem abortStated (b : s.LawsBut h) (rests : (s.head h).Rests) (on : (s.head h).enabled = true) {fate : SlotFate}
    (slot : fate ≠ .readoutContinues → (s.head h).slot = .empty) : (abortState h fate s).Laws := by
  have idle (empty : (s.head h).slot = .empty) :
      (s.modHead h fun hd => { hd with state := .idle, ring := hd.ring.commitPending }).Laws :=
    b.setHead (Head.Rests.law { rests with } rfl ⟨fun _ => (fun e => by cases e), fun _ => on⟩ fun _ => empty)
  cases fate with
  | none => exact (idle (slot fun e => by cases e)).raise _
  | unqueued => exact (idle (slot fun e => by cases e)).raise _
  | readoutContinues => exact b.setHead (Head.Rests.law { rests with } rfl ⟨fun _ => (fun e => by cases e), fun _ => on⟩
      fun e => absurd rfl e)

/-- A HEAD_RESET needs nothing of the head that it resets. -/
theorem reset (b : s.LawsBut h) : (headReset h s).Laws := fun k => by
  by_cases e : k = h
  · subst e
    rw [headReset_head]
    exact Head.afterReset_law _
  · rw [headReset_head_release e]
    exact releaseStrobe_law h (b k e)

end State.LawsBut

/-! ## Rows of one head -/

namespace State.Laws

theorem setHead (laws : s.Laws) {y : Head} (own : y.Law) : (s.setHead h y).Laws := (laws.but h).setHead own

theorem running_enabled (laws : s.Laws) (running : (s.head h).state.running = true) : (s.head h).enabled = true :=
  (laws h).enabled fun e => by rw [e] at running; cases running

theorem ends (laws : s.Laws) (notIn : ∀ n, h ∉ (s.chan n).waiters) (exposing : (s.head h).state = .exposing)
    (overrun : Bool) : (endCondition h overrun s).Laws := by
  have law := laws h
  have runs := law.runs (by rw [exposing]; rfl) (by rw [exposing]; exact fun e => by cases e)
  have group := law.group (by rw [exposing]; rfl)
  have pending := law.noPending (by rw [exposing]; exact fun e => by cases e) (by rw [exposing]; exact fun e => by cases e)
  have spaced := law.spaced (by rw [exposing]; rfl)
  have closing : ((s.head h).closing overrun).Runs := { runs.withGroup (Option.isSome_map ..) with }
  have groupC : ((s.head h).closing overrun).ctx.group.isSome = true := (Option.isSome_map ..).trans group
  have own : (s.setHead h ((s.head h).closing overrun)).head h = (s.head h).closing overrun := head_setHead_self ..
  have others : (s.setHead h ((s.head h).closing overrun)).LawsBut h := (laws.but h).setOwn _
  obtain ⟨-, -, e⟩ | ⟨last, full, e⟩ | ⟨notLast, e⟩ := endCondition_cases h overrun s <;> rw [e]
  · refine others.completeEnded notIn ?_ ?_ ?_ ?_ ?_ <;> rw [own]
    · exact closing
    · exact groupC
    · exact pending
    · rfl
    · exact spaced
  · refine laws.setHead (Head.Runs.extending { closing.withGroup (Option.isSome_map ..) with } rfl rfl pending spaced
      ((Option.isSome_map ..).trans groupC) last (fun g hg => ?_) full ?_)
    · obtain ⟨g', -, rfl⟩ := Option.map_eq_some_iff.1 (Option.mem_def.1 hg)
      rfl
    · obtain ⟨hdelay, hwait, hretry, n, hexposure⟩ := law.exposing_timers exposing
      refine ⟨n, ?_⟩
      simp only [Head.extended, Head.closing, hdelay, hwait, hretry, hexposure, HeadTimers.stopped]
  · have next : ((s.head h).closing overrun).ended.nextExposure.Runs :=
      closing.ended.nextExposure ((Option.isSome_map ..).trans groupC) notLast
    have own : ((endExposure h (s.setHead h ((s.head h).closing overrun))).head h).nextExposure
        = ((s.head h).closing overrun).ended.nextExposure := by
      rw [endExposure_head (s := s.setHead h _) notIn, own]
    simp only [modHead_eq_setHead, own]
    split
    · rename_i trigger
      exact others.endExposure.setHead (next.armed rfl rfl pending (runs.stopped_of_trigger trigger) rfl)
    · rename_i timer
      refine (others.endExposure.setOwn _).pacing ?_ ?_ ?_ ?_ <;> rw [head_setHead_self]
      · exact next
      · rfl
      · exact pending
      · exact spaced timer

end State.Laws

end Sys2Proof.Machine
end

section
/-! PROOFS. The laws of the heads at commands, events, completions and expiries, and every step lemma that rests on them. -/

namespace Sys2Proof.Machine

variable {s t : State} {h k : HeadIx}

theorem tryGrant_head (k : HeadIx) (s : State) : (tryGrant s).head k = s.head k
    ∨ ∃ g, (s.head k).slot = .queued g ∧ (tryGrant s).head k = { s.head k with slot := .active g } := by
  obtain e | ⟨i, g, rest, -, -, slot, e⟩ := tryGrant_slot_frame s <;> rw [e]
  · exact .inl rfl
  · by_cases hk : k = i
    · subst hk; exact .inr ⟨g, slot, head_setHead_self ..⟩
    · exact .inl (head_setHead_ne _ hk _)

theorem grantOrNot_head_cases (k : HeadIx) (s : State) : (grantOrNot s).head k = s.head k
    ∨ ∃ g, (s.head k).slot = .queued g ∧ (grantOrNot s).head k = { s.head k with slot := .active g } := by
  obtain ⟨-, e⟩ | ⟨-, e | e⟩ := grantOrNot_cases s <;> rw [e]
  · exact .inl rfl
  · exact .inl rfl
  · exact tryGrant_head k { s with choices := s.choices + 1 }

theorem law_of_grant {x y : Head} (law : x.Law) (e : y = x ∨ ∃ g, x.slot = .queued g ∧ y = { x with slot := .active g }) :
    y.Law := by
  obtain rfl | ⟨g, slot, rfl⟩ := e
  · exact law
  · exact law.withSlot ⟨fun e => (by cases e), fun e => by rw [slot] at e; cases e⟩

/-- A trigger may be latched in BLOCKED where the next start is triggered (R72, R73). -/
theorem Head.Law.latched {hd : Head} (law : hd.Law) (state : hd.state = .blocked) {l : Latch}
    (has : hd.ctx.prog.hasSource l.source = true) (triggered : hd.ctx.nextTriggered = true) {y : Head}
    (e : y = { hd with ctx := { hd.ctx with latch := some l } }) : y.Law := by
  subst e
  obtain ⟨hstate, hpending, hcount, hgroup, hoverlap, ⟨hdelay, hwait, hexposure, hintegration, hlimit, hretry, -, hsource⟩,
    hspacing⟩ := law
  refine ⟨hstate, hpending, hcount, hgroup, hoverlap, ⟨hdelay, hwait, hexposure, hintegration, hlimit, hretry,
    fun m hm => ?_,
    hsource⟩, hspacing⟩
  obtain rfl := Option.some.inj (Option.mem_def.1 hm)
  exact ⟨state, has, triggered⟩

/-- A spacing timer keeps its expiry time outside PACING (R59). -/
theorem Head.Law.spacingExpired {hd : Head} (law : hd.Law) (due : hd.ctx.spacing = .running 0)
    (notPacing : hd.state ≠ .pacing) (now : Stamp) :
    Head.Law { hd with ctx := { hd.ctx with spacing := .expired 0 now } } := by
  obtain ⟨hstate, hpending, hcount, hgroup, hoverlap,
    ⟨hdelay, hwait, hexposure, hintegration, hlimit, hretry, hlatch, hsource⟩,
    hrunning, harmed, -, -, -, hkind⟩ := law
  have inUse : hd.ctx.spacing ≠ .stopped := by rw [due]; exact fun e => by cases e
  refine ⟨hstate, hpending, hcount, hgroup, hoverlap, ⟨hdelay, hwait, hexposure, hintegration, hlimit, hretry,
    fun l hl => ?_,
    hsource⟩, fun _ => hrunning inUse, fun e => absurd (harmed e) inUse, fun e => absurd e notPacing,
    fun e => absurd e notPacing, fun _ _ => (fun e => by cases e), fun p hp => ?_⟩
  · obtain ⟨hblocked, hhas, htriggered⟩ := hlatch l hl
    refine ⟨hblocked, hhas, ?_⟩
    simp only [Context.nextTriggered, (hrunning inUse).2, due] at htriggered
    cases htriggered
  · obtain ⟨hpaced, hunpaced⟩ := hkind p hp
    rw [due] at hpaced hunpaced
    by_cases e : p.kind = .paced
    · cases hpaced e
    · cases hunpaced e

namespace State.Laws

theorem grant (laws : s.Laws) : (tryGrant s).Laws := fun k => law_of_grant (laws k) (tryGrant_head k s)

theorem grantOrNot (laws : s.Laws) : (Machine.grantOrNot s).Laws := fun k =>
  law_of_grant (laws k) (grantOrNot_head_cases k s)

/-! ## STOP and ABORT -/

theorem stop (laws : s.Laws) (h : HeadIx) : (stopHead h s).Laws := by
  simp only [stopHead]
  split
  · rename_i running
    split
    · exact laws.setHead ((laws h).stopPending ‹_›)
    · have rests := teardown_rests h s
      exact (laws.but h).teardown.drainOffered (((teardown_course s h).slotsStand.enabled h).trans
        (laws.running_enabled running)) rests.group rests.exposures _
  · exact laws

theorem abort (laws : s.Laws) (h : HeadIx) : (abortHead h s).Laws := by
  have rests := teardown_rests h s
  have torn := (laws.but h).teardown
  have ended (on : (s.head h).enabled = true) (body : Body) :
      (abortState h (abortSlot h (teardown h s)).1 (Machine.offer h body (abortSlot h (teardown h s)).2)).Laws := by
    have onT : ((teardown h s).head h).enabled = true := ((teardown_course s h).slotsStand.enabled h).trans on
    -- the slot's part of the ABORT, then the offering
    have slotted (x : Slot) (a : Arbiter) (fate : SlotFate) (empty : fate ≠ .readoutContinues → x = .empty) :
        (abortState h fate (Machine.offer h body
          { (teardown h s).setHead h { (teardown h s).head h with slot := x } with arb := a })).Laws := by
      have own : State.head { (teardown h s).setHead h { (teardown h s).head h with slot := x } with arb := a } h
          = { (teardown h s).head h with slot := x } := head_setHead_self ..
      have others : State.LawsBut { (teardown h s).setHead h { (teardown h s).head h with slot := x } with arb := a } h :=
        torn.setOwn _
      have stands := SlotsStand.offer
        { (teardown h s).setHead h { (teardown h s).head h with slot := x } with arb := a } h body
      refine (others.offer body).abortStated (offer_rests ?_ body) ?_ fun e => ?_
      · rw [own]; exact { rests with }
      · rw [stands.enabled, own]; exact onT
      · rw [stands.slot, own]; exact empty e
    simp only [abortSlot]
    split
    · rename_i empty
      have same := slotted .empty (teardown h s).arb .none fun _ => rfl
      rwa [← empty, setHead_head] at same
    · exact slotted .empty _ .unqueued fun _ => rfl
    · exact slotted _ _ .readoutContinues fun e => absurd rfl e
  simp only [abortHead]
  split
  · exact laws
  · exact laws
  · exact laws
  all_goals
    rename_i state
    exact ended ((laws h).enabled (by rw [state]; exact fun e => by cases e)) _

/-! ## HEAD_EN -/

theorem headSet (laws : s.Laws) (h : HeadIx) (on : Bool) : (setHeadEnable h on s).Laws := by
  cases on with
  | true =>
    show (enableHead h s).Laws
    simp only [enableHead]
    split
    · exact laws
    · exact laws.setHead (Head.Rests.law ⟨rfl, rfl, rfl, rfl, rfl, rfl, rfl, rfl⟩ rfl
        ⟨fun _ => (fun e => by cases e), fun _ => rfl⟩ fun _ => rfl)
  | false =>
    show (disableHead h s).Laws
    simp only [disableHead]
    split
    · refine (State.Laws.setHead (laws.but h).reset ?_)
      rw [headReset_head]
      exact Head.off_law ⟨rfl, rfl, rfl, rfl, rfl, rfl, rfl, rfl⟩ rfl
    · exact laws

theorem headEn (laws : s.Laws) (w : Word) : (writeHeadEn w s).Laws := by
  obtain ⟨order, n, -, e⟩ := writeHeadEn_spec s w
  rw [e]
  exact inTurn_induction (P := State.Laws) (fun h _ laws => laws.headSet h _) (fun _ laws => laws.grantOrNot) order _ laws

/-! ## Events -/

theorem asserted (laws : s.Laws) (src : Source) (time : Stamp) (h : HeadIx) : (receiveAssert src time h s).Laws := by
  have law := laws h
  simp only [receiveAssert]
  split
  · rename_i reaches
    simp only [Head.assertReaches, Bool.and_eq_true] at reaches
    obtain ⟨running, has⟩ := reaches
    have bursts := law.bursts running
    split
    · rename_i state
      have runs := law.runs running (by rw [state]; exact fun e => by cases e)
      obtain ⟨-, -, -, -, -, -, -, harmed, -⟩ := law
      exact (laws.but h).accept bursts runs.strict (harmed state) (fun e => by cases e) has
    · rename_i state
      split
      · rename_i triggered
        split
        · exact laws.setHead (law.latched state has triggered rfl)
        · exact laws.drop h _ _ _
      · exact laws.drop h _ _ _
    all_goals first | exact laws | exact laws.drop h _ _ _
  · exact laws

/-- A pending start other than a PACED one is dropped, and the head is ARMED again (R47, R105). -/
theorem rearmed (laws : s.Laws) {p : PendingStart} (ready : (s.head h).Ready p)
    (spacing : (s.head h).ctx.spacing = .stopped) : (s.setHead h (s.head h).rearmed).Laws :=
  laws.setHead (Head.Runs.armed { ready with } rfl rfl rfl spacing rfl)

theorem short (laws : s.Laws) (state : (s.head h).state = .delay ∨ (s.head h).state = .strobeWait)
    (width : (s.head h).ctx.prog.length = .width) (n : LineIx) : (shortStart h n s).Laws := by
  obtain ⟨p, pending⟩ := Option.isSome_iff_exists.1 ((laws h).pending.2 state)
  have ready := (laws h).ready pending
  have left : (leaveWaiters h s).Laws := laws
  exact (rearmed (s := leaveWaiters h s) left ready (ready.stopped_of_width width)).drop h _ _ _

theorem released (laws : s.Laws) (apart : s.ApartFrom []) (n : LineIx) (h : HeadIx) : (receiveRelease n h s).Laws := by
  simp only [receiveRelease]
  split
  · rename_i reaches
    simp only [Head.releaseReaches, Bool.and_eq_true, decide_eq_true_eq] at reaches
    obtain ⟨⟨-, width⟩, -⟩ := reaches
    split
    · exact laws.short (.inl ‹_›) width n
    · exact laws.short (.inr ‹_›) width n
    · rename_i state
      exact laws.ends (apart.notIn (by rw [state]; exact fun e => by cases e)) state false
    all_goals exact laws
  · exact laws

theorem asserts (laws : s.Laws) (src : Source) (time : Stamp) (heads : List HeadIx) :
    (deliverAssert src time heads s).Laws := by
  obtain ⟨order, n, -, e⟩ := deliverAssert_spec s src time heads
  rw [e]
  exact List.foldlRecOn (motive := State.Laws) order _ laws fun _ a h _ => a.asserted src time h

theorem releases (laws : s.Laws) (apart : s.ApartFrom []) (n : LineIx) : (deliverRelease n s).Laws := by
  obtain ⟨order, k, -, e⟩ := deliverRelease_spec s n
  rw [e]
  have chosen : State.Laws { s with choices := k } := laws
  exact (inTurn_induction (P := fun s => s.Laws ∧ s.ApartFrom [])
    (fun h _ ⟨laws, apart⟩ => ⟨laws.released apart n h, apart.released n h⟩)
    (fun _ ⟨laws, apart⟩ => ⟨laws.grantOrNot, apart.grantOrNot⟩) order _ ⟨chosen, apart.choices k⟩).1

/-! ## Expiries -/

theorem delayExpires (laws : s.Laws) (h : HeadIx) : (expireDelay h s).Laws := by
  simp only [expireDelay, modHead_eq_setHead]
  split
  · rename_i due
    simp only [Head.delayDue, Bool.and_eq_true, decide_eq_true_eq] at due
    obtain ⟨p, pending⟩ := Option.isSome_iff_exists.1 ((laws h).pending.2 (.inl due.1))
    refine ((laws.but h).setOwn _).attempt (p := p) ?_
    rw [head_setHead_self]
    exact { (laws h).ready pending with }
  · exact laws

theorem spacingExpires (laws : s.Laws) (h : HeadIx) : (expireSpacing h s).Laws := by
  have law := laws h
  simp only [expireSpacing, modHead_eq_setHead]
  split
  · rename_i due
    have due : (s.head h).ctx.spacing = .running 0 := of_decide_eq_true due
    split
    · rename_i state
      have runs := law.runs (by rw [state]; rfl) (by rw [state]; exact fun e => by cases e)
      refine ((laws.but h).setOwn _).paced ?_ ?_ ?_ <;> rw [head_setHead_self]
      · exact { runs with timed := fun _ => runs.timed (by rw [due]; exact fun e => by cases e) }
      · exact law.noSource (by rw [state]; exact fun e => by cases e) (by rw [state]; exact fun e => by cases e)
          (by rw [state]; exact fun e => by cases e)
    · rename_i state
      exact laws.setHead (law.spacingExpired due state s.now)
  · exact laws

theorem strobeWaitExpires (laws : s.Laws) (h : HeadIx) : (expireStrobeWait h s).Laws := by
  simp only [expireStrobeWait]
  split
  · split
    · exact laws
    rename_i p pending
    have ready := (laws h).ready pending
    have left : (leaveWaiters h s).Laws := laws
    split
    · rename_i kind
      exact (rearmed (s := leaveWaiters h s) left ready
          (ready.unpaced (by rw [kind]; exact fun e => by cases e))).drop h _ _ _
    · rename_i kind
      exact (rearmed (s := leaveWaiters h s) left ready
          (ready.unpaced (by rw [kind]; exact fun e => by cases e))).drop h _ _ _
    · rename_i kind
      obtain ⟨_, _, _, _, own⟩ := dropTrigger_head h h .strobeTimeout none p.arrival
        ((leaveWaiters h s).setHead h (s.head h).rearmed)
      rw [head_setHead_self] at own
      have ctx : ((dropTrigger h .strobeTimeout none p.arrival ((leaveWaiters h s).setHead h (s.head h).rearmed)).head h).ctx
          = (s.head h).rearmed.ctx := by rw [own]
      have spacing : ((dropTrigger h .strobeTimeout none p.arrival
          ((leaveWaiters h s).setHead h (s.head h).rearmed)).head h).ctx.spacing ≠ .stopped := by
        rw [ctx, show (s.head h).rearmed.ctx.spacing = (s.head h).ctx.spacing from rfl, ready.paced kind]
        exact fun e => by cases e
      have others : (dropTrigger h .strobeTimeout none p.arrival
          ((leaveWaiters h s).setHead h (s.head h).rearmed)).LawsBut h := fun k hk => by
        obtain ⟨_, _, _, _, e⟩ := dropTrigger_head h k .strobeTimeout none p.arrival
          ((leaveWaiters h s).setHead h (s.head h).rearmed)
        rw [e, head_setHead_ne _ hk]
        exact (laws k).marks _ _ _ _ _
      have runs : ((dropTrigger h .strobeTimeout none p.arrival
          ((leaveWaiters h s).setHead h (s.head h).rearmed)).head h).Runs := by
        rw [own]; exact { ready with }
      split
      · exact others.setHead (Head.Runs.pacing { runs with } rfl (congrArg Context.startLine ctx)
          (congrArg Context.pendingStart ctx) spacing (fun e => by cases e) ⟨_, rfl⟩)
      · exact others.pacing runs (congrArg Context.startLine ctx) (congrArg Context.pendingStart ctx) spacing
  · exact laws

/-- The attempt at the tick that a paced retry waited for (R105). -/
theorem retry (laws : s.Laws) (state : (s.head h).state = .pacing) : (enterPacing h s).Laws := by
  have law := laws h
  have spacing : (s.head h).ctx.spacing ≠ .stopped := by
    obtain ⟨-, -, -, -, -, -, -, -, hpacing, -⟩ := law
    exact hpacing state
  exact (laws.but h).pacing (law.runs (by rw [state]; rfl) (by rw [state]; exact fun e => by cases e))
    (law.noSource (by rw [state]; exact fun e => by cases e) (by rw [state]; exact fun e => by cases e)
      (by rw [state]; exact fun e => by cases e))
    (law.noPending (by rw [state]; exact fun e => by cases e) (by rw [state]; exact fun e => by cases e)) spacing

/-! ## Strobe channels -/

theorem start (laws : s.Laws) (h : HeadIx) (locked : Bool) : (startExposure h locked s).Laws := fun k =>
  startExposure_law h locked (laws k)

theorem disable (laws : s.Laws) (n : ChanIx) : (disableStrobe n s).Laws := by
  have started {u : State} (laws : u.Laws) (ws : List HeadIx) : (ws.foldl (fun s w => startExposure w false s) u).Laws :=
    List.foldlRecOn (motive := State.Laws) ws _ laws fun _ a w _ => a.start w false
  simp only [disableStrobe]
  split
  · exact started (State.Laws.setHead (s := s.setChan n _) laws (laws _).darken) _
  · exact started (u := s.setChan n _) laws _

theorem strobeSet (laws : s.Laws) (n : ChanIx) (enable low : Bool) : (setStrobe n enable low s).Laws := by
  have polar : (s.setChan n { s.chan n with activeLow := low }).Laws := laws
  simp only [setStrobe]
  split
  · exact laws
  · exact polar.disable n
  · exact laws
  · exact laws

theorem strobeCfg (laws : s.Laws) (w : Word) : (writeStrobeCfg w s).Laws :=
  List.foldlRecOn (motive := State.Laws) allChans _ laws fun _ a n _ => a.strobeSet n _ _

end State.Laws

end Sys2Proof.Machine
end

section
/-! PROOFS. The laws of the heads at completions and at a tick, and the step lemmas of the arbiter, of the heads' contexts and
of all blocks together. -/

namespace Sys2Proof.Machine

variable {s t : State} {h k : HeadIx}

/-! ## Completions -/

/-- Every head but h keeps its laws, and h kept them until its slot became EMPTY. -/
structure State.Vacates (s : State) (h : HeadIx) (x : Head) : Prop where
  others : s.LawsBut h
  law : x.Law
  own : s.head h = { x with slot := .empty }

namespace State.Vacates

variable {x : Head}

theorem state (v : s.Vacates h x) : (s.head h).state = x.state := by rw [v.own]

theorem blocked (v : s.Vacates h x) (state : x.state = .blocked) : (leaveBlocked h s).Laws := by
  obtain ⟨others, law, own⟩ := v
  have startLine := law.noSource (by rw [state]; exact fun e => by cases e) (by rw [state]; exact fun e => by cases e)
    (by rw [state]; exact fun e => by cases e)
  have pending := law.noPending (by rw [state]; exact fun e => by cases e) (by rw [state]; exact fun e => by cases e)
  have bursts : Head.Bursts { x with slot := .empty } := { law.bursts (by rw [state]; rfl) with }
  have stopped : x.timers = HeadTimers.stopped := law.stopped (by rw [state]; exact fun e => by cases e)
    (by rw [state]; exact fun e => by cases e) (by rw [state]; exact fun e => by cases e) (by rw [state]; rfl)
  simp only [leaveBlocked]
  split
  · rename_i l latch
    have latched : x.ctx.latch = some l := by rw [own] at latch; exact latch
    obtain ⟨-, has, triggered⟩ := law.latch_holds latched
    refine others.accept ?_ ?_ ?_ (fun e => by cases e) ?_ <;> rw [own]
    · exact bursts
    · exact fun _ => rfl
    · exact bursts.stopped_of_triggered triggered
    · exact has
  rename_i latch
  have runs : Head.Runs { x with slot := .empty } := { bursts with
    strict := fun _ => rfl, latch := by rw [own] at latch; exact latch }
  split
  · rename_i triggered
    refine others.setHead ?_
    rw [own] at triggered ⊢
    exact Head.Runs.armed { runs with } rfl startLine pending (bursts.stopped_of_triggered triggered) stopped
  · rename_i notTriggered
    refine others.pacing ?_ ?_ ?_ ?_ <;> rw [own]
    · exact runs
    · exact startLine
    · exact pending
    · rw [own] at notTriggered
      exact Head.spacing_of_notTriggered notTriggered

theorem emptied (v : s.Vacates h x) (notIn : x.state = .extending → ∀ n, h ∉ (s.chan n).waiters) :
    (slotEmptied h s).Laws := by
  have kept (notBlocked : (s.head h).state ≠ .blocked) (notExtending : (s.head h).state ≠ .extending) : s.Laws := by
    intro k
    by_cases e : k = h
    · rw [e, v.own]
      exact v.law.vacated (v.state ▸ notBlocked) (v.state ▸ notExtending)
    · exact v.others k e
  simp only [slotEmptied]
  split
  · rename_i state
    rw [v.state] at state
    have rests := v.law.rests (by rw [state]; rfl)
    refine State.Laws.raise ?_ _
    refine v.others.setHead ?_
    rw [v.own]
    exact Head.idle_law (r := { x with slot := .empty }) { rests with }
      (v.law.enabled (by rw [state]; exact fun e => by cases e)) rfl
  · rename_i state
    exact v.blocked (v.state ▸ state)
  · rename_i state
    rw [v.state] at state
    have law := v.law
    have runs := law.runs (by rw [state]; rfl) (by rw [state]; exact fun e => by cases e)
    refine v.others.completeEnded (notIn state) ?_ ?_ ?_ ?_ ?_ <;> rw [v.own]
    · exact { runs with strict := fun _ => rfl }
    · exact law.group (by rw [state]; rfl)
    · exact law.noPending (by rw [state]; exact fun e => by cases e) (by rw [state]; exact fun e => by cases e)
    · exact law.noSource (by rw [state]; exact fun e => by cases e) (by rw [state]; exact fun e => by cases e)
        (by rw [state]; exact fun e => by cases e)
    · exact law.spaced (by rw [state]; rfl)
  all_goals
    rename_i state
    exact kept (by rw [state]; exact fun e => by cases e) (by rw [state]; exact fun e => by cases e)

/-- A grant within an event leaves a head whose slot is EMPTY. -/
theorem grantOrNot (v : s.Vacates h x) : (Machine.grantOrNot s).Vacates h x where
  others k hk := law_of_grant (v.others k hk) (grantOrNot_head_cases k s)
  law := v.law
  own := by
    obtain e | ⟨g, slot, -⟩ := grantOrNot_head_cases h s
    · rw [e, v.own]
    · rw [v.own] at slot
      cases slot

theorem notified (v : s.Vacates h x) (apart : s.ApartFrom []) : (notifyEmptied h s).Laws := by
  have notIn {u : State} (apart : u.ApartFrom []) (own : (u.head h).state = x.state) (state : x.state = .extending)
      (n : ChanIx) :
      h ∉ (u.chan n).waiters := apart.notIn (by rw [own, state]; exact fun e => by cases e) n
  simp only [notifyEmptied]
  split
  · exact v.grantOrNot.emptied (notIn apart.grantOrNot v.grantOrNot.state)
  · exact v.emptied (notIn apart v.state)

theorem fault (v : s.Vacates h x) (on : x.enabled = true) (code : FaultCode) : (headFault h code s).Laws :=
  v.others.fault (by rw [v.own]; exact on) (by rw [v.own]) code

end State.Vacates

namespace State.Laws

/-- The head of a readout is enabled: its slot is ACTIVE. -/
theorem busy_enabled (laws : s.Laws) (arbiter : s.ArbiterLaw) (busy : s.arb.port.head? = some h) :
    (s.head h).enabled = true := by
  obtain ⟨-, -, -, hactive⟩ := arbiter
  have active := (hactive h).1 busy
  refine (laws h).enabled fun off => ?_
  rw [(laws h).empty (.inl off)] at active
  cases active

theorem freed (laws : s.Laws) (h : HeadIx) : (freePort h s).Vacates h (s.head h) where
  others := (laws.but h).setOwn _
  law := laws h
  own := head_setHead_self ..

theorem captured (laws : s.Laws) (apart : s.ApartFrom []) (h : HeadIx) (status : Status) (level : Word) :
    (captureReadout h status level s).Laws := by
  simp only [captureReadout]
  split
  · exact ((laws.offer h _).freed h).notified ((apart.offer h _).freed h)
  all_goals exact (laws.freed h).notified (apart.freed h)

theorem takes (laws : s.Laws) (apart : s.ApartFrom []) (arbiter : s.ArbiterLaw) (tag : Byte) (status : Status)
    (level : Word) : (takeComplete tag status level s).Laws := by
  simp only [takeComplete]
  split
  · exact laws
  rename_i h active left port
  repeat' split
  · exact laws.captured apart _ _ _
  · exact laws.captured apart _ _ _
  · exact (laws.freed h).fault (laws.busy_enabled arbiter (by rw [port]; rfl)) _
  · exact laws

theorem timeout (laws : s.Laws) (arbiter : s.ArbiterLaw) : (expireReadout s).Laws := by
  simp only [expireReadout]
  split
  · rename_i h tag port
    exact (State.Laws.freed (s := passMessage (.cancel tag) s) laws h).fault
      (laws.busy_enabled arbiter (by rw [port]; rfl)) _
  all_goals exact laws

end State.Laws

/-! ## The tick -/

theorem SpacingTimer.tick_stopped (x : SpacingTimer) : x.tick = .stopped ↔ x = .stopped := by
  cases x <;> simp [SpacingTimer.tick]

theorem SpacingTimer.tick_isRunning (x : SpacingTimer) : x.tick.isRunning = x.isRunning := by
  cases x <;> rfl

theorem Retry.tick_none (r : Retry) : r.tick = .none ↔ r = .none := by cases r <;> simp [Retry.tick]

/-- A tick counts and moves no head from its state (R40, R41, R72). -/
theorem Head.Law.tick {hd : Head} (law : hd.Law) : hd.tick.Law := by
  obtain ⟨hstate, hpending, hcount, hgroup, hoverlap, htimer, hspacing⟩ := law
  obtain ⟨hdelay, hwait, hexposure, hintegration, hlimit, hretry, hlatch, hsource⟩ := htimer
  obtain ⟨hinUse, harmed, hpacing, hrunning, hspaced, hkind⟩ := hspacing
  have stopped : hd.tick.ctx.spacing = .stopped ↔ hd.ctx.spacing = .stopped := SpacingTimer.tick_stopped _
  have triggered : hd.tick.ctx.nextTriggered = hd.ctx.nextTriggered := by
    simp only [Context.nextTriggered, stopped]; rfl
  refine ⟨hstate, (Eq.congr_left (Option.isSome_map ..)).trans hpending, hcount, hgroup, hoverlap,
    ⟨?_, ?_, ?_, ?_, ?_, ?_, ?_, hsource⟩,
    fun e => hinUse (mt stopped.2 e), fun e => stopped.2 (harmed e), fun e => mt stopped.1 (hpacing e), fun e n => ?_,
    fun e n => mt stopped.1 (hspaced e n), fun p hp => ?_⟩
  · exact (Eq.congr_left (Option.isSome_map ..)).trans hdelay
  · exact (Eq.congr_left (Option.isSome_map ..)).trans hwait
  · exact (Eq.congr_left (Option.isSome_map ..)).trans hexposure
  · exact (Eq.congr_left (Option.isSome_map ..)).trans hintegration
  · exact (Eq.congr_left (Option.isSome_map ..)).trans hlimit
  · exact fun e => hretry (mt (Retry.tick_none _).2 e)
  · intro l hl
    obtain ⟨l', hl', rfl⟩ := Option.map_eq_some_iff.1 (Option.mem_def.1 hl)
    rw [triggered]
    exact hlatch l' hl'
  · exact (SpacingTimer.tick_isRunning _).trans (hrunning e ((Retry.tick_none _).1 n))
  · obtain ⟨p', hp', rfl⟩ := Option.map_eq_some_iff.1 (Option.mem_def.1 hp)
    obtain ⟨hpaced, hunpaced⟩ := hkind p' hp'
    exact ⟨fun e => congrArg SpacingTimer.tick (hpaced e), fun e => stopped.2 (hunpaced e)⟩

/-! ## Every act -/

theorem State.Laws.of_blocks (laws : s.Laws) (e : SameBlocks s t) : t.Laws := fun k => e.head k ▸ laws k

theorem reset_head_law : Head.reset.Law := 
  Head.Rests.law ⟨rfl, rfl, rfl, rfl, rfl, rfl, rfl, rfl⟩ rfl ⟨fun e => (by cases e), fun e => absurd rfl e⟩ fun _ => rfl

theorem Acts.laws (a : Acts s t) (laws : s.Laws) (apart : s.ApartFrom []) (arbiter : s.ArbiterLaw) : t.Laws := by
  induction a with
  | same => exact laws
  | also a e ih => exact ih.of_blocks e
  | start h n idle accepted =>
    exact laws.setHead (Head.started_law n (entry_accepted accepted)
      ((laws h).enabled (by rw [idle]; exact fun e => by cases e))
      ((laws h).empty (.inr (.inl idle))))
  | stop h => exact laws.stop h
  | abort h => exact laws.abort h
  | clear h fault =>
    have rests := (laws h).rests (by rw [fault]; rfl)
    exact laws.setHead (Head.idle_law rests ((laws h).enabled (by rw [fault]; exact fun e => by cases e))
      ((laws h).empty (.inr (.inr fault))))
  | reset h => exact (laws.but h).reset
  | ring h r => exact laws.setHead ((laws h).marks ..)
  | drops h n => exact laws.setHead ((laws h).marks ..)
  | headEn w => exact laws.headEn w
  | enable h on => exact laws.headSet h on
  | asserts src time heads e => exact (laws.of_blocks e).asserts src time heads
  | releases n e => exact (laws.of_blocks e).releases (apart.of_blocks e) n
  | delay h => exact laws.delayExpires h
  | ends h overrun exposing =>
    exact laws.ends (apart.notIn (by rw [exposing]; exact fun e => by cases e)) exposing overrun
  | spacing h => exact laws.spacingExpires h
  | strobeWait h => exact laws.strobeWaitExpires h
  | retry h pacing => exact laws.retry pacing
  | strobe n enable low => exact laws.strobeSet n enable low
  | strobeCfg w => exact laws.strobeCfg w
  | grant e => exact (laws.of_blocks e).grant
  | complete tag status level => exact laws.takes apart arbiter tag status level
  | timeout => exact laws.timeout arbiter
  | tick => exact fun k => head_tickEnd s k ▸ (laws k).tick
  | softReset => exact fun k => head_softReset s k ▸ Head.afterReset_law _
  | powerOn => 
    intro k
    rw [show State.reset.head k = Head.reset from Vector.getElem_replicate _]
    exact reset_head_law

/-! ## The step lemmas -/

/-- The laws that the heads, the channels and the arbiter keep together. -/
structure State.Together (s : State) : Prop where
  laws : s.Laws
  apart : s.ApartFrom []
  arbiter : s.ArbiterLaw

namespace State.Together

theorem of_laws (arbiter : s.ArbiterLaw) (states : s.HeadStateLaw) (strobe : s.StrobeLaw) (context : s.ContextLaw) :
    s.Together :=
  ⟨fun k => ⟨states k, strobe.2.2 k, context k⟩, State.strobeLaw_iff.1 strobe, arbiter⟩

theorem of_blocks (x : s.Together) (e : SameBlocks s t) : t.Together :=
  ⟨x.laws.of_blocks e, x.apart.of_blocks e, x.arbiter.of_blocks e⟩

theorem acts (x : s.Together) (a : Acts s t) : t.Together where
  laws := a.laws x.laws x.apart x.arbiter
  apart := a.strobeLaw x.apart fun k off => by
    by_contra on
    rw [(x.laws k).enabled on] at off
    cases off
  arbiter := a.arbiterLaw x.arbiter fun k off => (x.laws k).empty (.inl (by
    by_contra on
    rw [(x.laws k).enabled on] at off
    cases off))

theorem step (x : s.Together) (e : Machine.step s = .next t) : t.Together :=
  step_acts (R := fun s t => s.Together → t.Together) (fun a x => x.acts a) (fun b r x => r (x.of_blocks b.symm)) e x

theorem states (x : s.Together) : s.HeadStateLaw := fun k => (x.laws k).state

theorem context (x : s.Together) : s.ContextLaw := fun k => (x.laws k).context

theorem strobe (x : s.Together) : s.StrobeLaw := State.strobeLaw_iff.2 x.apart

end State.Together

/-- The order of the requests by the Priority in each slot's group (R113). -/
theorem State.ArbiterLaw.urgent_first (law : s.ArbiterLaw) : s.arb.queue.Pairwise fun a b => ∀ g : Completed,
    (s.head b).slot = .queued g → g.priority = .urgent → ∃ g' : Completed,
      (s.head a).slot = .queued g' ∧ g'.priority = .urgent := by
  obtain ⟨-, -, hurgent, -⟩ := law
  refine hurgent.imp fun {a b} ordered g slot priority => ?_
  have urgent := ordered (by rw [slot]; exact decide_eq_true priority)
  cases e : (s.head a).slot with
  | queued g' => rw [e] at urgent; exact ⟨g', rfl, of_decide_eq_true urgent⟩
  | empty => rw [e] at urgent; cases urgent
  | active g' => rw [e] at urgent; cases urgent

end Sys2Proof.Machine

namespace Sys2Proof.Proofs

open Sys2Proof.Machine

/-- Settles O54, with the laws of the channels and of the contexts. -/
theorem stepKeepsTheArbiterLaw : Obligations.StepKeepsTheArbiterLaw := fun _ _ arbiter states strobe context e =>
  have x := (State.Together.of_laws arbiter states strobe context).step e
  ⟨x.arbiter, x.states, x.arbiter.urgent_first⟩

/-- Settles O56: what a state needs of a head, operation by operation. -/
theorem stepKeepsTheContextLaw : Obligations.StepKeepsTheContextLaw := fun _ _ context states strobe arbiter e =>
  ((State.Together.of_laws arbiter states strobe context).step e).context

/-- Settles O58: the step lemmas of the blocks together. -/
theorem stepKeepsEveryLaw : Obligations.StepKeepsEveryLaw := by
  rintro s t ⟨queue, lines, clock, states, rings, arbiter, strobe, context⟩ e
  have x := (State.Together.of_laws arbiter states strobe context).step e
  obtain ⟨hqueue, hlines, hclock⟩ := stepKeepsQueueLinesAndClock s t e
  exact ⟨hqueue queue, hlines lines, hclock clock, x.states, stepKeepsTheRingLaw s t rings states e, x.arbiter, x.strobe,
    x.context⟩

end Sys2Proof.Proofs
end

section
/-! PROOFS. The step with and without a waiting command, the transaction, and the reset state. -/

namespace Sys2Proof.Machine

/-! ## Due events -/

variable {s : State}

theorem Head.mem_dueEvents {h : HeadIx} {hd : Head} {c : Instr} : c ∈ hd.dueEvents h ↔
    (hd.delayDue = true ∧ c = .delayExpiry h) ∨ (hd.integrationDue = true ∧ c = .integrationExpiry h)
    ∨ (hd.widthLimitDue = true ∧ c = .widthLimitExpiry h) ∨ (hd.spacingDue = true ∧ c = .spacingExpiry h)
    ∨ (hd.strobeWaitDue = true ∧ c = .strobeWaitExpiry h) ∨ (hd.retryDue = true ∧ c = .overdueTickAttempt h) := by
  simp only [dueEvents, List.mem_append, or_assoc, List.mem_ite_nil_right, List.mem_singleton]

theorem mem_dueEvents {c : Instr} : c ∈ s.dueEvents ↔
    (∃ h, c ∈ (s.head h).dueEvents h) ∨ (∃ n, (s.line n).filterDue = true ∧ c = .filterExpiry n)
    ∨ (∃ g, (s.rate g).periodDue = true ∧ c = .ratePeriodExpiry g)
    ∨ (s.arb.port.timeoutDue = true ∧ c = .readoutTimeout) ∨ (s.grantDue = true ∧ c = .grant) := by
  have heads : ∀ h : HeadIx, h ∈ allHeads := by decide
  have lines : ∀ n : LineIx, n ∈ allLines := by decide
  have rates : ∀ g : RateIx, g ∈ allRates := by decide
  simp only [State.dueEvents, List.mem_append, or_assoc, List.mem_ite_nil_right, List.mem_singleton, List.mem_flatMap,
    List.mem_map, List.mem_filter, heads, lines, rates, true_and, eq_comm (a := c)]

/-- Every event that may be due, in the order in which they are collected. -/
def ownEvents : List Instr :=
  allHeads.flatMap (fun h => [.delayExpiry h, .integrationExpiry h, .widthLimitExpiry h, .spacingExpiry h,
    .strobeWaitExpiry h, .overdueTickAttempt h])
    ++ allLines.map .filterExpiry ++ allRates.map .ratePeriodExpiry ++ [.readoutTimeout] ++ [.grant]

theorem ite_nil_sublist {α : Type} (c : Bool) (x : α) : (if c then [x] else []).Sublist [x] := by
  cases c
  · exact List.nil_sublist _
  · exact List.Sublist.refl _

/-- No event is due twice: the due ones are collected in the order of all of them. -/
theorem dueEvents_nodup (s : State) : s.dueEvents.Nodup := by
  have sub : s.dueEvents.Sublist ownEvents := by
    refine .append (.append (.append (.append (List.Sublist.flatMap_right _ fun h _ => ?_) ?_) ?_) (ite_nil_sublist ..))
      (ite_nil_sublist ..)
    · exact .append (.append (.append (.append (.append (ite_nil_sublist ..) (ite_nil_sublist ..)) (ite_nil_sublist ..))
        (ite_nil_sublist ..)) (ite_nil_sublist ..)) (ite_nil_sublist ..)
    · exact .map _ List.filter_sublist
    · exact .map _ List.filter_sublist
  exact sub.nodup (by decide)

theorem Line.filterDue_iff (l : Line) :
    l.filterDue = true ↔ ∃ level high : Bool, l.qualifier = some ⟨level, some ⟨high, 0⟩⟩ := by
  obtain ⟨low, filter, q⟩ := l
  simp only [filterDue]
  constructor
  · intro due
    match q, due with
    | some ⟨level, some ⟨high, left⟩⟩, due =>
      obtain rfl : left = 0 := of_decide_eq_true due
      exact ⟨level, high, rfl⟩
  · rintro ⟨level, high, e⟩
    rw [show q = _ from e]
    rfl

theorem RateGen.periodDue_iff (g : RateGen) : g.periodDue = true ↔ ∃ count : Byte, g.run = some ⟨0, count⟩ := by
  simp only [periodDue]
  constructor
  · intro due
    split at due
    · rename_i k _
      obtain ⟨left, count⟩ := k
      obtain rfl : left = 0 := of_decide_eq_true due
      exact ⟨count, by assumption⟩
    · cases due
  · rintro ⟨count, e⟩
    rw [e]
    rfl

theorem Port.timeoutDue_iff (p : Port) : p.timeoutDue = true ↔ ∃ (h : HeadIx) (tag : Byte), p = .busy h tag 0 := by
  cases p with
  | idle => exact ⟨fun e => (by cases e), fun ⟨_, _, e⟩ => by cases e⟩
  | busy h tag n =>
    refine decide_eq_true_iff.trans ⟨fun e => ⟨h, tag, by rw [e]⟩, fun ⟨_, _, e⟩ => ?_⟩
    cases e
    rfl

theorem grantDue_iff (s : State) :
    s.grantDue = true ↔ s.arb.port = .idle ∧ s.arb.linkEnable = true ∧ s.arb.queue ≠ [] := by
  simp only [State.grantDue, Bool.and_eq_true, decide_eq_true_eq, and_assoc, Bool.not_eq_true', List.isEmpty_eq_false_iff]

/-! ## The step of an empty queue -/

theorem step_idle (empty : s.pending = []) : step s = idle s := by
  simp only [step, empty]

theorem idle_nil (none : s.dueEvents = []) : idle s = .next (refclk s) := by
  simp only [idle, none]

theorem idle_one {c : Instr} (one : s.dueEvents = [c]) : idle s = exec c s := by
  simp only [idle, one]

theorem idle_several (several : 2 ≤ s.dueEvents.length) :
    ∃ c ∈ s.dueEvents, idle s = exec c { s with choices := s.choices + 1 } := by
  simp only [idle]
  split
  · rename_i e; rw [e] at several; cases several
  · rename_i e; rw [e] at several; exact absurd several (by simp)
  · rename_i c cs _ e
    have inside : Config.dueChoice s.choices % (cs.length + 1) < (c :: cs).length := Nat.mod_lt _ (Nat.succ_pos _)
    refine ⟨_, ?_, rfl⟩
    rw [List.getD_eq_getElem _ _ inside]
    rw [e]; exact List.getElem_mem inside

end Sys2Proof.Machine

namespace Sys2Proof.Proofs

open Sys2Proof.Machine

/-- Settles O1: the two are the same by the definition of a step. -/
theorem stepTakesFrontCommand : Obligations.StepTakesFrontCommand := fun _ _ _ => rfl

/-- Settles O2: which events are due, and what the part does with none, one and several of them. -/
theorem emptyQueueStep : Obligations.EmptyQueueStep := by
  refine fun s => ⟨fun empty => ?_, dueEvents_nodup s, fun h => ?_, fun n => ?_, fun g => ?_, ?_, ?_, fun c hc => ?_⟩
  · rw [step_idle empty]
    refine ⟨fun none below => ?_, fun none reached => ?_, fun c one => idle_one one, idle_several⟩ <;> rw [idle_nil none]
    · exact congrArg _ (if_pos (Nat.succ_lt_succ below))
    · exact congrArg _ (if_neg (by omega))
  · simp [mem_dueEvents, Head.mem_dueEvents, Head.delayDue, Head.integrationDue, Head.widthLimitDue, Head.spacingDue,
      Head.strobeWaitDue, Head.retryDue]
  · simp [mem_dueEvents, Head.mem_dueEvents, Line.filterDue_iff]
  · simp [mem_dueEvents, Head.mem_dueEvents, RateGen.periodDue_iff]
  · simp [mem_dueEvents, Head.mem_dueEvents, Port.timeoutDue_iff]
  · simp [mem_dueEvents, Head.mem_dueEvents, grantDue_iff]
  · obtain ⟨h, hh⟩ | ⟨n, -, rfl⟩ | ⟨g, -, rfl⟩ | ⟨-, rfl⟩ | ⟨-, rfl⟩ := mem_dueEvents.1 hc
    · refine .inr (.inr (.inl ⟨h, ?_⟩))
      obtain ⟨-, rfl⟩ | ⟨-, rfl⟩ | ⟨-, rfl⟩ | ⟨-, rfl⟩ | ⟨-, rfl⟩ | ⟨-, rfl⟩ := Head.mem_dueEvents.1 hh <;> simp
    · exact .inr (.inr (.inr (.inl ⟨n, rfl⟩)))
    · exact .inr (.inr (.inr (.inr ⟨g, rfl⟩)))
    · exact .inl rfl
    · exact .inr (.inl rfl)

/-- Settles O6: the transaction that the address byte opens, and the two ways a deselect ends one. -/
theorem addressByteAndDeselect : Obligations.AddressByteAndDeselect := by
  refine ⟨fun _ _ => rfl, fun cut s => ⟨fun isCut open_ => ?_, fun notCut => ?_⟩⟩
  · have cuts : cutsTbLo s cut = true := by
      simp only [cutsTbLo, isCut, open_]; rfl
    show execDeselect cut s = _
    simp only [execDeselect, cuts]
    rfl
  · have cuts : cutsTbLo s cut = false := by
      simp only [cutsTbLo, Bool.and_eq_false_iff, decide_eq_false_iff_not]
      exact notCut
    show execDeselect cut s = _
    simp only [execDeselect, cuts]
    rfl

end Sys2Proof.Proofs
end

section
/-! PROOFS. The commands that act on a head: START, STOP, ABORT, CLEAR, HEAD_RESET and APPLY, HEAD_EN and HEAD_DROPn
(Sections 3.2, 3.5, 5.3 and 9.2 to 9.7). First each command's act by its argument, then the teardown, the offering of a
record from two states that agree on its marks, and last the statements. -/

namespace Sys2Proof.Machine

variable {s : State} {h : HeadIx}

/-! ## The acts by their argument -/

/-- RESULT of a refused START carries the validation code (Table 11.5). -/
theorem resultWord_program (code : ValCode) :
    resultWord (.program code) 0x01 = 0b11000#5 ++ valCode (some code) ++ 0x01#8 := by
  cases code <;> rfl

theorem onHead_eq (act : HeadIx → State → Verdict × State) (hh : s.port.arg0.toNat = h.val) :
    onHead act s = act h s := by
  simp only [onHead, headArg_eq hh]

theorem onHead_above (act : HeadIx → State → Verdict × State) (above : 3 < s.port.arg0.toNat) :
    onHead act s = (.badHead, s) := by
  simp only [onHead, headArg_above above]

theorem cmdStart_badHead (above : 3 < s.port.arg0.toNat) : cmdStart s = (.badHead, s) := by
  simp only [cmdStart, headArg_above above]

theorem cmdStart_badArg (hh : s.port.arg0.toNat = h.val) (above : 31 < s.port.arg1.toNat) :
    cmdStart s = (.badArg, s) := by
  simp only [cmdStart, headArg_eq hh, entryArg_above above]

theorem cmdStart_notIdle {n : EntryIx} (hh : s.port.arg0.toNat = h.val) (hn : s.port.arg1.toNat = n.val)
    (notIdle : (s.head h).state ≠ .idle) : cmdStart s = (.state, s) := by
  simp only [cmdStart, headArg_eq hh, entryArg_eq hn, if_neg notIdle]

theorem cmdStart_accepted {n : EntryIx} (hh : s.port.arg0.toNat = h.val) (hn : s.port.arg1.toNat = n.val)
    (idle : (s.head h).state = .idle) (accepted : validate (s.entry n) = none) :
    cmdStart s = (.done, s.setHead h { s.head h with
      state := .armed, ctx := Context.load n (s.entry n).prog, timers := HeadTimers.stopped }) := by
  simp only [cmdStart, headArg_eq hh, entryArg_eq hn, if_pos idle, accepted]
  rfl

theorem cmdClear_fault (hh : s.port.arg0.toNat = h.val) (fault : (s.head h).state = .fault) :
    cmdClear s = (.done, s.setHead h { s.head h with state := .idle }) := by
  rw [cmdClear, onHead_eq _ hh, if_pos fault]
  rfl

theorem cmdClear_state (hh : s.port.arg0.toNat = h.val) (notFault : (s.head h).state ≠ .fault) :
    cmdClear s = (.state, s) := by
  rw [cmdClear, onHead_eq _ hh, if_neg notFault]

theorem cmdApply_accepted (hh : s.port.arg0.toNat = h.val) (ok : (s.head h).ring.staged.ok = true) :
    cmdApply s = (.done, s.setHead h (s.head h).applyAccepted) := by
  rw [cmdApply, onHead_eq _ hh, if_pos ok]
  rfl

theorem cmdApply_refused (hh : s.port.arg0.toNat = h.val) (ok : ¬ (s.head h).ring.staged.ok = true) :
    cmdApply s = (.badSet, s) := by
  rw [cmdApply, onHead_eq _ hh, if_neg ok]

/-! ## Offering a record -/

theorem offer_fits {body : Body} (fits : (formRecord h (s.head h) body).len ≤ s.queue.free) : offer h body s
    = { s.setHead h { s.head h with seq := (s.head h).seq + 1, lost := 0, restart := false } with
        queue := { s.queue with records := s.queue.records ++ [formRecord h (s.head h) body] } } := by
  simp only [offer, if_pos fits]

theorem offer_lost {body : Body} (full : ¬ (formRecord h (s.head h) body).len ≤ s.queue.free) : offer h body s
    = (s.setHead h { s.head h with seq := (s.head h).seq + 1, lost := satInc (s.head h).lost }).raise lostBit := by
  simp only [offer, if_neg full]

/-- The offering of one record from two states that agree on queue, causes and the head's record marks: both take the
same marks, queue and causes. -/
theorem offer_agree {s' : State} (h : HeadIx) (body : Body) (queue : s'.queue = s.queue) (irq : s'.irq = s.irq)
    (seq : (s'.head h).seq = (s.head h).seq) (lost : (s'.head h).lost = (s.head h).lost)
    (restart : (s'.head h).restart = (s.head h).restart) : ∃ n l r q i,
    offer h body s
        = { s.setHead h { s.head h with seq := n, lost := l, restart := r } with queue := q, irq := i }
      ∧ offer h body s'
        = { s'.setHead h { s'.head h with seq := n, lost := l, restart := r } with queue := q, irq := i } := by
  have same : formRecord h (s'.head h) body = formRecord h (s.head h) body := by
    simp only [formRecord, seq, lost, restart]
  by_cases fits : (formRecord h (s.head h) body).len ≤ s.queue.free
  · refine ⟨_, _, _, _, s.irq, offer_fits fits, (offer_fits (by rw [same, queue]; exact fits)).trans ?_⟩
    rw [same, queue, ← irq, seq]
    rfl
  · refine ⟨_, _, _, s.queue, s.irq.raise lostBit, offer_lost fits, (offer_lost (by rw [same, queue]; exact fits)).trans ?_⟩
    rw [← queue, ← irq, ← seq, ← lost, ← restart]
    rfl

/-- A head written again in a state whose queue and causes have been replaced. -/
theorem setHead_written (h : HeadIx) (y x : Head) (q : RecordQueue) (i : Interrupts) (s : State) :
    State.setHead { s.setHead h y with queue := q, irq := i } h x = { s.setHead h x with queue := q, irq := i } := by
  rw [← setHead_setHead s h y x]
  rfl

/-- Entering DRAINING at a head that has just been written with its record's queue and causes. -/
theorem enterDraining_setHead (h : HeadIx) (y : Head) (q : RecordQueue) (i : Interrupts) (s : State) :
    enterDraining h { s.setHead h y with queue := q, irq := i } = { s.setHead h y.drained with
      queue := q, irq := if y.slot = .empty then i.raise (doneBit h) else i } := by
  have own : State.head { s.setHead h y with queue := q, irq := i } h = y := head_setHead_self s h y
  rw [enterDraining_eq, own, setHead_written]
  split <;> rfl

/-! ## The teardown (R150) -/

theorem releaseStrobe_free (free : ∀ n, (s.chan n).holder ≠ some h) : releaseStrobe h s = s := by
  have none : s.heldBy h = none := List.find?_eq_none.2 fun n _ => by simpa using free n
  simp only [releaseStrobe, none]

theorem teardown_free (free : ∀ n, (s.chan n).holder ≠ some h) : teardown h s = (leaveWaiters h s).setHead h
    { s.head h with ctx := (s.head h).ctx.tornDown, timers := HeadTimers.stopped } := by
  simp only [teardown, releaseStrobe_free free]
  rfl

/-- A head that does not wait at a channel it holds is not restarted by its own release. -/
theorem releaseStrobe_head_own (own : ∀ n, (s.chan n).holder = some h → h ∉ (s.chan n).waiters) :
    (releaseStrobe h s).head h = s.head h := by
  obtain e | ⟨n, _, holder, waits, -⟩ := releaseStrobe_head_cases h h s
  · exact e
  · exact absurd waits (own n holder)

theorem teardown_chan (h : HeadIx) (s : State) (n : ChanIx) : (teardown h s).chan n = { (releaseStrobe h s).chan n with
    waiters := ((releaseStrobe h s).chan n).waiters.filter fun w => decide (w ≠ h) } :=
  chan_leaveWaiters _ h n

theorem teardown_rest (h : HeadIx) (s : State) : { teardown h s with heads := s.heads, chans := s.chans } = s := by
  obtain ⟨hs, cs, e⟩ := teardown_frame s h
  rw [e]

@[simp] theorem teardown_slot (h k : HeadIx) (s : State) : ((teardown h s).head k).slot = (s.head k).slot := by
  by_cases e : k = h
  · subst e
    rw [teardown_head]
    exact releaseStrobe_slot s k k
  · rw [teardown_head_ne e]
    exact releaseStrobe_slot s h k

theorem teardown_arb (h : HeadIx) (s : State) : (teardown h s).arb = s.arb := by
  obtain ⟨hs, cs, e⟩ := teardown_frame s h
  rw [e]

/-- What no exposure start changes, a release leaves at every head. -/
theorem releaseStrobe_head_keeps {α : Type} {f : Head → α}
    (keeps : ∀ (hd : Head) (now : Stamp) (p : PendingStart), f (hd.startExposure now p true) = f hd) (h k : HeadIx)
    (s : State) : f ((releaseStrobe h s).head k) = f (s.head k) := by
  obtain e | ⟨_, _, -, -, -, e⟩ := releaseStrobe_head_cases h k s
  · rw [e]
  · rw [e, keeps]

theorem Head.startExposure_progIndex (hd : Head) (now : Stamp) (p : PendingStart) (locked : Bool) :
    (hd.startExposure now p locked).ctx.progIndex = hd.ctx.progIndex := by
  obtain ⟨_, _, e⟩ := Head.startExposure_frame hd now p locked
  rw [e]

/-- An exposure start leaves the staged ring. -/
theorem Head.startExposure_staged (hd : Head) (now : Stamp) (p : PendingStart) (locked : Bool) :
    (hd.startExposure now p locked).ring.staged = hd.ring.staged := by
  rw [Head.startExposure_ring]
  simp only [Head.openGroup, HeadRing.commitPending]
  repeat' split
  all_goals rfl

theorem Head.discarded_eq (hd : Head) : hd.discarded = if hd.ctx.group = none then 0
    else if hd.state = .exposing ∨ hd.state = .extending then hd.ctx.exposuresDone.zeroExtend 5 + 1
    else hd.ctx.exposuresDone.zeroExtend 5 := by
  have exposes : hd.state.exposes = true ↔ hd.state = .exposing ∨ hd.state = .extending := by
    cases hd.state <;> simp [ExpState.exposes]
  simp only [Head.discarded, Option.isNone_iff_eq_none, exposes]

/-! ## ABORT (R156) -/

/-- Table 9.1: the fate that an ABORT notes. -/
def Slot.fate : Slot → SlotFate
  | .empty => .none
  | .queued _ => .unqueued
  | .active _ => .readoutContinues

/-- The slot after an ABORT: an ACTIVE group is marked, a QUEUED one is withdrawn. -/
def Slot.aborted : Slot → Slot
  | .active g => .active { g with aborted := true }
  | .empty | .queued _ => .empty

/-- The arbiter after an ABORT of head h, whose slot was as given. -/
def Arbiter.afterAbort (a : Arbiter) (h : HeadIx) : Slot → Arbiter
  | .queued _ => { a with queue := a.queue.filter fun k => decide (k ≠ h) }
  | .empty | .active _ => a

theorem abortSlot_eq (h : HeadIx) (s : State) : abortSlot h s = ((s.head h).slot.fate,
    { s.setHead h { s.head h with slot := (s.head h).slot.aborted } with
      arb := s.arb.afterAbort h (s.head h).slot }) := by
  cases e : (s.head h).slot with
  | empty =>
    have same : ({ s.head h with slot := .empty } : Head) = s.head h := by rw [← e]
    simp only [abortSlot, e, Slot.aborted, same, setHead_head]
    rfl
  | queued g => simp only [abortSlot, e]; rfl
  | active g => simp only [abortSlot, e]; rfl

theorem abortState_setHead (h : HeadIx) (fate : SlotFate) (y : Head) (q : RecordQueue) (i : Interrupts) (s : State) :
    abortState h fate { s.setHead h y with queue := q, irq := i } = { s.setHead h { y with
        state := if fate = .readoutContinues then .draining else .idle, ring := y.ring.commitPending } with
      queue := q, irq := if fate = .readoutContinues then i else i.raise (doneBit h) } := by
  have own : State.head { s.setHead h y with queue := q, irq := i } h = y := head_setHead_self s h y
  cases fate <;> simp only [abortState, modHead_eq_setHead, own, setHead_written] <;> rfl

theorem abortHead_rests (rests : (s.head h).state = .off ∨ (s.head h).state = .idle ∨ (s.head h).state = .fault) :
    abortHead h s = s := by
  obtain e | e | e := rests <;> simp only [abortHead, e]

theorem abortHead_acts (off : (s.head h).state ≠ .off) (idle : (s.head h).state ≠ .idle)
    (fault : (s.head h).state ≠ .fault) : abortHead h s = abortState h (s.head h).slot.fate
      (offer h (.abort (s.head h).discarded (s.head h).slot.fate) (abortSlot h (teardown h s)).2) := by
  have fate : (abortSlot h (teardown h s)).1 = (s.head h).slot.fate := by rw [abortSlot_eq, teardown_slot]
  rw [← fate]
  cases e : (s.head h).state <;> first | exact absurd e (by assumption) | simp only [abortHead, e]

/-- ABORT at a head that acts: the record is offered from the torn-down state. -/
theorem abortHead_eq (off : (s.head h).state ≠ .off) (idle : (s.head h).state ≠ .idle)
    (fault : (s.head h).state ≠ .fault) : ∃ n l r q i,
    offer h (.abort (s.head h).discarded (s.head h).slot.fate) (teardown h s) = { (teardown h s).setHead h
        { (teardown h s).head h with seq := n, lost := l, restart := r } with queue := q, irq := i }
    ∧ abortHead h s = { (teardown h s).setHead h { (teardown h s).head h with
          slot := (s.head h).slot.aborted, seq := n, lost := l, restart := r
          state := if (s.head h).slot.fate = .readoutContinues then .draining else .idle
          ring := ((teardown h s).head h).ring.commitPending } with
        arb := s.arb.afterAbort h (s.head h).slot
        queue := q
        irq := if (s.head h).slot.fate = .readoutContinues then i else i.raise (doneBit h) } := by
  have slotted : (abortSlot h (teardown h s)).2 = { (teardown h s).setHead h
        { (teardown h s).head h with slot := (s.head h).slot.aborted } with
      arb := s.arb.afterAbort h (s.head h).slot } := by
    rw [abortSlot_eq, teardown_slot, teardown_arb]
  have own : (abortSlot h (teardown h s)).2.head h
      = { (teardown h s).head h with slot := (s.head h).slot.aborted } := by
    rw [slotted]; exact head_setHead_self _ h _
  obtain ⟨n, l, r, q, i, e, e'⟩ := offer_agree (s := teardown h s) (s' := (abortSlot h (teardown h s)).2) h
    (.abort (s.head h).discarded (s.head h).slot.fate) (by rw [slotted]; rfl) (by rw [slotted]; rfl)
    (by rw [own]) (by rw [own]) (by rw [own])
  refine ⟨n, l, r, q, i, e, ?_⟩
  have write (x : Head) : State.setHead { (teardown h s).setHead h
        { (teardown h s).head h with slot := (s.head h).slot.aborted } with
      arb := s.arb.afterAbort h (s.head h).slot } h x
      = { (teardown h s).setHead h x with arb := s.arb.afterAbort h (s.head h).slot } := by
    rw [← setHead_setHead (teardown h s) h { (teardown h s).head h with slot := (s.head h).slot.aborted } x]
    rfl
  rw [abortHead_acts off idle fault, e', abortState_setHead, own, slotted, write]

/-! ## HEAD_RESET (R162) -/

theorem resetSlot_chan (h : HeadIx) (s : State) (n : ChanIx) : (resetSlot h s).chan n = s.chan n := by
  obtain ⟨hs, a, l, e⟩ := resetSlot_frame s h
  rw [e]
  rfl

theorem resetSlot_head_ne {k : HeadIx} (hk : k ≠ h) (s : State) : (resetSlot h s).head k = s.head k := by
  obtain ⟨slot, a, l, e⟩ := resetSlot_slot_frame h s
  rw [e]
  exact head_setHead_ne s hk _

/-- A head after its reset, whatever its channel's release made of it. -/
theorem headReset_head_eq (h : HeadIx) (s : State) : (headReset h s).head h = { s.head h with
    state := if (s.head h).enabled then .idle else .off
    ctx := Context.cleared
    timers := HeadTimers.stopped
    slot := .empty
    ring := ((releaseStrobe h s).head h).ring.afterReset
    drops := 0, seq := 0, lost := 0, restart := true } := by
  have enabled : ((releaseStrobe h s).head h).enabled = (s.head h).enabled :=
    releaseStrobe_head_keeps (f := Head.enabled) (fun hd now p => Head.startExposure_enabled ..) h h s
  obtain ⟨slot, a, l, e⟩ := resetSlot_slot_frame h (teardown h s)
  have own : (resetSlot h (teardown h s)).head h = { (teardown h s).head h with slot := slot } := by
    rw [e]; exact head_setHead_self _ h _
  rw [headReset_head, own, teardown_head]
  simp only [Head.afterReset, enabled]

theorem headReset_chan (h : HeadIx) (s : State) (n : ChanIx) :
    (headReset h s).chan n = (leaveWaiters h (releaseStrobe h s)).chan n :=
  resetSlot_chan h (teardown h s) n

theorem resetSlot_empty (e : (s.head h).slot = .empty) : resetSlot h s = s := by
  simp only [resetSlot, e]

theorem resetSlot_queued {g : Completed} (e : (s.head h).slot = .queued g) : resetSlot h s = removeRequest h s := by
  simp only [resetSlot, e]

theorem resetSlot_active {g : Completed} (e : (s.head h).slot = .active g) : resetSlot h s = cancelReadout h s := by
  simp only [resetSlot, e]

theorem cancelReadout_busy {tag : Byte} {n : Nat} (busy : s.arb.port = .busy h tag n) :
    cancelReadout h s = passMessage (.cancel tag) (freePort h s) := by
  simp only [cancelReadout, busy, if_true]

theorem teardown_link (h : HeadIx) (s : State) : (teardown h s).link = s.link := by
  obtain ⟨hs, cs, e⟩ := teardown_frame s h
  rw [e]

end Sys2Proof.Machine

namespace Sys2Proof.Proofs

open Sys2Proof.Machine

/-- Settles O18: START's checks one by one, then the load. -/
theorem startFollowsItsChecks : Obligations.StartFollowsItsChecks := by
  refine fun u s => ⟨commandWord .start cmdStart u s, rfl,
    fun above => commandWord_unchanged (cmdStart_badHead above) .start u, fun h hh =>
    ⟨fun above => commandWord_unchanged (cmdStart_badArg hh above) .start u, fun n hn =>
    ⟨fun notIdle => commandWord_unchanged (cmdStart_notIdle hh hn notIdle) .start u, fun idle code refused => ?_,
      fun idle accepted => ?_⟩⟩⟩
  · rw [← resultWord_program]
    exact commandWord_unchanged (cmdStart_refused hh hn idle refused) .start u
  · obtain ⟨p, hp, hr⟩ := commandWord_frame (cmdStart_accepted hh hn idle accepted) .start u
    rw [hp]
    exact ⟨hr, head_setHead_self s h _, fun k hk => head_setHead_ne s hk _, rfl⟩

/-- Settles O22: the mark set, cleared and left; HEAD_DROPn. -/
theorem headEnableDisableAndDropClear : Obligations.HeadEnableDisableAndDropClear := by
  refine fun h s => ⟨⟨_, rfl, ?_, fun on => ?_, fun off => ?_⟩, ⟨_, rfl, ?_, fun off => ?_, fun on => ?_⟩, ?_⟩
  · obtain ⟨hs, e⟩ := enableHead_frame s h
    show { afterWrite headEnAddr (enableHead h s) with port := s.port } = enableHead h s
    rw [e]
    rfl
  · rw [enableHead_on s h on]
    rfl
  · rw [enableHead_off s h off]
    exact ⟨head_setHead_self s h _, fun k hk => head_setHead_ne s hk _, rfl⟩
  · obtain ⟨hs, cs, a, l, e⟩ := disableHead_frame s h
    show { afterWrite headEnAddr (disableHead h s) with port := s.port } = disableHead h s
    rw [e]
    rfl
  · rw [disableHead_off s h off]
    rfl
  · obtain ⟨hs, cs, a, l, e⟩ := headReset_frame s h
    refine ⟨disableHead_head s h on, fun k hk => disableHead_head_ne s h hk on, ?_⟩
    simp only [disableHead, if_pos on, e]
    rfl
  · refine ⟨_, rfl, ?_, head_setHead_self s h _, fun k hk => head_setHead_ne s hk _, rfl⟩
    fin_cases h <;> exact congrArg Head.drops (head_setHead_self s _ _)

/-- Settles O23: the checks, then the commit or the mark. -/
theorem applyChecksAndCommits : Obligations.ApplyChecksAndCommits := by
  refine fun u s => ⟨commandWord .apply cmdApply u s, rfl,
    fun above => commandWord_unchanged (onHead_above _ above) .apply u, fun h hh =>
    ⟨fun fails => commandWord_unchanged (cmdApply_refused hh (mt (Ring.ok_iff _).1 fails)) .apply u, fun passes => ?_⟩⟩
  obtain ⟨p, hp, hr⟩ := commandWord_frame (cmdApply_accepted hh ((Ring.ok_iff _).2 passes)) .apply u
  rw [hp]
  exact ⟨hr, head_setHead_self s h _, fun k hk => head_setHead_ne s hk _, rfl⟩

/-- Settles O19: the head runs no burst, has its group open, or ends its burst at once. -/
theorem stopEndsOrMarksTheBurst : Obligations.StopEndsOrMarksTheBurst := by
  refine fun u s => ⟨commandWord .stop cmdStop u s, rfl,
    fun above => commandWord_unchanged (onHead_above _ above) .stop u, fun h hh => ?_⟩
  obtain ⟨p, hp, hr⟩ := commandWord_frame (act := cmdStop) (onHead_eq _ hh) .stop u
  rw [hp]
  refine ⟨hr, fun rests => ?_, fun runs opened => ?_, fun runs closed free => ?_⟩
  · simp only [stopHead, rests]
    rfl
  · simp only [stopHead, runs, opened, if_true]
    exact ⟨head_setHead_self s h _, fun k hk => head_setHead_ne s hk _, rfl⟩
  · have torn := teardown_free free
    have own : (teardown h s).head h
        = { s.head h with ctx := (s.head h).ctx.tornDown, timers := HeadTimers.stopped } := by
      rw [torn, head_setHead_self]
    obtain ⟨n, l, r, q, i, e, e'⟩ := offer_agree (s := s) (s' := teardown h s) h
      (.burstEnd .stopped none (s.head h).ctx.progIndex none) (by rw [torn]; rfl) (by rw [torn]; rfl)
      (by rw [own]) (by rw [own]) (by rw [own])
    have oh : (offer h (.burstEnd .stopped none (s.head h).ctx.progIndex none) s).head h
        = { s.head h with seq := n, lost := l, restart := r } := by
      rw [e]; exact head_setHead_self s h _
    simp only [stopHead, runs, closed, Option.isSome_none, if_true, if_neg Bool.false_ne_true]
    rw [e', own, enterDraining_setHead, torn, setHead_setHead, oh, e]
    exact ⟨head_setHead_self _ h _, fun k hk => head_setHead_ne _ hk _, chan_leaveWaiters s h, rfl, rfl, rfl⟩

/-- Settles O20: the teardown, then the ABORT by the head's state and its slot. -/
theorem abortTearsTheHeadDown : Obligations.AbortTearsTheHeadDown := by
  refine ⟨fun h s => ⟨?_, ?_, fun k hk => teardown_head_ne hk, teardown_chan h s, teardown_rest h s, fun own => ?_⟩,
    fun u s => ⟨commandWord .abort cmdAbort u s, rfl,
      fun above => commandWord_unchanged (onHead_above _ above) .abort u, fun h hh => ?_⟩⟩
  · have kept : ((releaseStrobe h s).head h).ctx.progIndex = (s.head h).ctx.progIndex
        ∧ ((releaseStrobe h s).head h).ctx.prog = (s.head h).ctx.prog :=
      ⟨releaseStrobe_head_keeps (f := fun hd => hd.ctx.progIndex) (fun _ _ _ => Head.startExposure_progIndex ..) h h s,
        releaseStrobe_head_keeps (f := fun hd => hd.ctx.prog) (fun _ _ _ => Head.startExposure_prog ..) h h s⟩
    rw [teardown_head, ← kept.1, ← kept.2]
    rfl
  · rw [teardown_head]
    rfl
  · rw [teardown_head, releaseStrobe_head_own own]
    rfl
  obtain ⟨p, hp, hr⟩ := commandWord_frame (act := cmdAbort) (onHead_eq _ hh) .abort u
  refine ⟨by rw [hp]; exact hr, fun rests => by rw [hp, abortHead_rests rests],
    fun off idle fault => ?_⟩
  intro fate discarded d o
  obtain ⟨n, l, r, q, i, e, e'⟩ := abortHead_eq off idle fault
  have hfate : fate = (s.head h).slot.fate := by
    show (match (s.head h).slot with | .empty => _ | .queued _ => _ | .active _ => _) = _
    cases (s.head h).slot <;> rfl
  have ho : o = offer h (.abort (s.head h).discarded (s.head h).slot.fate) d := by
    rw [← hfate, Head.discarded_eq]
  have oh : o.head h = { d.head h with seq := n, lost := l, restart := r } := by
    rw [ho, e]; exact head_setHead_self _ h _
  have oq : o.queue = q ∧ o.irq = i := by rw [ho, e]; exact ⟨rfl, rfl⟩
  rw [hp, e', oh, oq.1, oq.2, hfate]
  refine ⟨(head_setHead_self _ h _).trans ?_, fun k hk => head_setHead_ne _ hk _, fun n => rfl, ?_, rfl, rfl, ?_⟩
  · cases (s.head h).slot <;> rfl
  · show s.arb.afterAbort h (s.head h).slot = _
    cases (s.head h).slot <;> rfl
  · obtain ⟨hs, cs, frame⟩ := teardown_frame s h
    rw [frame]
    rfl

/-- Settles O21: CLEAR by the head's state, then the reset block by block. -/
theorem clearAndHeadReset : Obligations.ClearAndHeadReset := by
  refine ⟨fun u s => ⟨commandWord .clear cmdClear u s, rfl,
    fun above => commandWord_unchanged (onHead_above _ above) .clear u, fun h hh =>
      ⟨fun notFault => commandWord_unchanged (cmdClear_state hh notFault) .clear u, fun fault => ?_⟩⟩,
    fun u s => ⟨commandWord .headReset cmdHeadReset u s, rfl,
      fun above => commandWord_unchanged (onHead_above _ above) .headReset u, fun h hh => ?_⟩⟩
  · obtain ⟨p, hp, hr⟩ := commandWord_frame (cmdClear_fault hh fault) .clear u
    rw [hp]
    exact ⟨hr, head_setHead_self s h _, fun k hk => head_setHead_ne s hk _, rfl⟩
  obtain ⟨p, hp, hr⟩ := commandWord_frame (act := cmdHeadReset) (onHead_eq _ hh) .headReset u
  obtain ⟨hs, cs, a, l, frame⟩ := headReset_frame s h
  have own : State.head { headReset h s with port := p } h = _ := headReset_head_eq h s
  have staged : ((releaseStrobe h s).head h).ring.staged = (s.head h).ring.staged :=
    releaseStrobe_head_keeps (f := fun hd => hd.ring.staged) (fun _ _ _ => Head.startExposure_staged ..) h h s
  rw [hp]
  refine ⟨hr, by rw [frame], by rw [own], by rw [own]; rfl, by rw [own]; rfl, by rw [own]; rfl,
    by rw [own]; exact staged, fun notIn => ?_, fun k hk => ?_, headReset_chan h s, fun empty => ?_,
    fun g queued => ?_, fun g tag n active busy => ?_, by rw [frame]⟩
  · rw [own, releaseStrobe_head_own notIn]
    rfl
  · exact (headReset_head_ne s h hk).trans ((resetSlot_head_ne hk _).trans (teardown_head_ne hk))
  · have e := resetSlot_empty (s := teardown h s) (h := h) (by rw [teardown_slot, empty])
    exact ⟨(congrArg State.arb e).trans (teardown_arb h s), (congrArg State.link e).trans (teardown_link h s)⟩
  · have e := resetSlot_queued (s := teardown h s) (h := h) (by rw [teardown_slot, queued])
    refine ⟨(congrArg State.arb e).trans ?_, (congrArg State.link e).trans (teardown_link h s)⟩
    simp only [removeRequest, teardown_arb]
  · have e := (resetSlot_active (s := teardown h s) (h := h) (by rw [teardown_slot, active])).trans
      (cancelReadout_busy (by rw [teardown_arb, busy]))
    refine ⟨(congrArg State.arb e).trans ?_, (congrArg State.link e).trans ?_⟩
    · simp only [freePort, passMessage_arb, teardown_arb]
    · exact congrArg (fun l => l.pass (.cancel tag)) (teardown_link h s)

end Sys2Proof.Proofs
end

section
/-! PROOFS. The record queue as the host reads it and as the heads fill it, the timebase registers and the interrupt
registers (Sections 3.7, 8.2 to 8.9, 10.1 to 10.3). -/

namespace Sys2Proof.Machine

variable {s : State}

/-! ## Counts -/

theorem satInc_word (c : Word) : satInc c = if c = 65535 then 65535 else c + 1 := by
  simp only [satInc]
  split
  · rename_i e
    rw [e]
    rfl
  · rename_i e
    exact (if_neg e).symm

theorem satInc_byte (c : Byte) : satInc c = if c = 255 then 255 else c + 1 := by
  simp only [satInc]
  split
  · rename_i e
    rw [e]
    rfl
  · rename_i e
    exact (if_neg e).symm

/-! ## The word at the read position (R144) -/

namespace RecordQueue

variable {q : RecordQueue} {r : Record} {rs : List Record}

theorem word_cons (e : q.records = r :: rs) (inside : q.readPos < r.words.length) :
    some q.word = r.words[q.readPos]? := by
  simp only [word, e, List.getD_eq_getElem?_getD, List.getElem?_eq_getElem inside, Option.getD_some]

theorem readOne_inside (e : q.records = r :: rs) (more : q.readPos + 1 < r.words.length) :
    q.readOne = { q with readPos := q.readPos + 1 } := by
  exact (readOne_cons e).trans (if_neg (Nat.not_le.2 more))

theorem readOne_last (e : q.records = r :: rs) (last : q.readPos + 1 = r.words.length) :
    q.readOne = { q with records := rs, readPos := 0 } := by
  exact (readOne_cons e).trans (if_pos (Nat.le_of_eq last.symm))

/-- A word read takes one word from the occupancy. -/
theorem occupancy_readOne (e : q.records = r :: rs) (inside : q.readPos < r.words.length) :
    q.readOne.occupancy = q.occupancy - 1 := by
  rw [occupancy_cons e]
  obtain more | last := Nat.lt_or_eq_of_le (Nat.succ_le_of_lt inside)
  · rw [readOne_inside e more, occupancy_cons (q := { q with readPos := q.readPos + 1 }) e]
    exact (Nat.sub_sub ..).symm
  · rw [readOne_last e last]
    show (rs.map Record.len).sum - 0 = _
    omega

end RecordQueue

/-! ## A record's fit -/

theorem record_fits (q : RecordQueue) (r : Record) : r.len ≤ q.free ↔ q.occupancy + r.words.length ≤ 512 := by
  have two : 2 ≤ r.words.length := r.two_le_len
  show r.words.length ≤ 512 - q.occupancy ↔ _
  omega

/-! ## The interrupt request (R171) -/

/-- The bits of the causes: LEVEL, and the sticky flags at their places. -/
theorem causes_getLsbD (s : State) (i : Fin 16) : s.causes.getLsbD i.val
    = (s.irq.flags.getLsbD i.val && decide (i.val ∉ [0, 5, 6, 7]) || decide (i.val = 0) && s.queue.level) := by
  have level : ∀ i : Fin 16, levelBit.getLsbD i.val = decide (i.val = 0) := by decide
  have sticky : ∀ i : Fin 16, stickyMask.getLsbD i.val = decide (i.val ∉ [0, 5, 6, 7]) := by decide
  simp only [State.causes, BitVec.getLsbD_or, BitVec.getLsbD_and, sticky]
  cases s.queue.level
  · simp
  · simp only [if_true, level, Bool.and_true]

theorem ne_zero_iff_getLsbD {w : Nat} (x : BitVec w) : x ≠ 0 ↔ ∃ i : Fin w, x.getLsbD i.val = true := by
  refine ⟨fun ne => by_contra fun none => ne (BitVec.eq_of_getLsbD_eq fun i hi => ?_), fun ⟨i, hi⟩ e => ?_⟩
  · rw [BitVec.ofNat_eq_ofNat, BitVec.getLsbD_zero]
    exact Bool.eq_false_iff.2 fun set => none ⟨⟨i, hi⟩, set⟩
  · rw [e, BitVec.ofNat_eq_ofNat, BitVec.getLsbD_zero] at hi
    cases hi

theorem getLsbD_lt {w i : Nat} {x : BitVec w} (set : x.getLsbD i = true) : i < w :=
  Nat.lt_of_not_le fun above => by rw [BitVec.getLsbD_of_ge x i above] at set; cases set

theorem irqRequest_iff (s : State) : s.irqRequest = true ↔
    (∃ i : Nat, i ≠ 0 ∧ s.irq.enables.getLsbD i = true ∧ i ∉ [5, 6, 7] ∧ s.irq.flags.getLsbD i = true)
    ∨ (s.irq.enables.getLsbD 0 = true ∧ s.queue.threshold ≤ s.queue.occupancy) := by
  rw [State.irqRequest, decide_eq_true_eq, ne_zero_iff_getLsbD]
  simp only [BitVec.getLsbD_and, causes_getLsbD, Bool.and_eq_true, Bool.or_eq_true, decide_eq_true_eq]
  constructor
  · rintro ⟨i, ⟨flag, sticky⟩ | ⟨zero, level⟩, enabled⟩
    · rw [List.mem_cons, not_or] at sticky
      exact .inl ⟨i.val, sticky.1, enabled, sticky.2, flag⟩
    · rw [zero] at enabled
      exact .inr ⟨enabled, of_decide_eq_true level⟩
  · rintro (⟨i, nonzero, enabled, sticky, flag⟩ | ⟨enabled, level⟩)
    · exact ⟨⟨i, getLsbD_lt flag⟩, .inl ⟨flag, by rw [List.mem_cons, not_or]; exact ⟨nonzero, sticky⟩⟩, enabled⟩
    · exact ⟨0, .inr ⟨rfl, decide_eq_true level⟩, enabled⟩

theorem zeroExtend_low_byte (w : Word) : (w.extractLsb' 0 8).zeroExtend 16 = w &&& 0x00FF := by
  apply BitVec.eq_of_toNat_eq
  rw [BitVec.toNat_and, show (0x00FF : Word).toNat = 2 ^ 8 - 1 from rfl, Nat.and_two_pow_sub_one_eq_mod]
  simp only [BitVec.toNat_setWidth, BitVec.extractLsb'_toNat, Nat.shiftRight_zero]
  omega

theorem clampThreshold_eq (w : Word) :
    clampThreshold w = if w = 0 then 1 else if 512 < w.toNat then 512 else w.toNat := by
  have zero : w = 0 ↔ w.toNat = 0 := ⟨fun e => by rw [e]; rfl, fun e => BitVec.eq_of_toNat_eq e⟩
  simp only [clampThreshold, Config.queueWords, zero]
  split
  · omega
  split <;> omega

end Sys2Proof.Machine

namespace Sys2Proof.Proofs

open Sys2Proof.Machine

/-- Settles O27: the queue empty, and the oldest record's last word or an earlier one. -/
theorem queueReadTakesOneWord : Obligations.QueueReadTakesOneWord := by
  refine fun s => ⟨_, rfl, rfl, fun empty => ⟨?_, ?_⟩, fun r rs e inside => ⟨RecordQueue.word_cons e inside,
    RecordQueue.occupancy_readOne e inside, RecordQueue.readOne_inside e, RecordQueue.readOne_last e⟩⟩
  · show some s.queue.word = _
    simp only [RecordQueue.word, empty]
  · show { s with queue := s.queue.readOne } = s
    rw [RecordQueue.readOne_nil empty]

/-- Settles O28: the record fits or is lost; the drop is counted, and noticed or not. -/
theorem recordsAndDropsAreAccounted : Obligations.RecordsAndDropsAreAccounted := by
  refine ⟨fun h body s => ⟨fun fits => offer_fits ((record_fits ..).2 fits), fun full => ?_⟩,
    fun h reason src time s => ?_⟩
  · rw [offer_lost (mt (record_fits ..).1 (Nat.not_le.2 full)), satInc_word]
    rfl
  · intro hd counted
    have e : (s.modHead h fun hd => { hd with drops := satInc hd.drops }).raise dropBit = counted := by
      simp only [satInc_word]
      rfl
    have own : (counted.head h).ctx = hd.ctx := by
      rw [← e]
      simp only [modHead_eq_setHead, head_raise, head_setHead_self, hd]
    simp only [dropTrigger, e, own]
    rfl

/-- Settles O50: TB_LOAD, TB_LO, and TB_DIV with and without a tick's end beside it. -/
theorem timebaseRegisters : Obligations.TimebaseRegisters := by
  refine fun s => ⟨rfl, fun u => ?_, ⟨_, rfl, ⟨_, rfl, ?_⟩, rfl, rfl, rfl⟩, fun w => ⟨_, rfl, ?_⟩⟩
  · obtain ⟨p, hp, hr⟩ := commandWord_frame (act := cmdTbLoad) (s := s) rfl .tbLoad u
    refine ⟨_, rfl, ?_⟩
    rw [hp]
    refine ⟨hr, ?_, rfl, rfl⟩
    show (s.port.arg1 ++ s.port.arg0).toNat = _
    rw [BitVec.toNat_append, Nat.shiftLeft_eq, Nat.mul_comm, ← Nat.two_pow_add_eq_or_of_lt s.port.arg0.isLt]
  · show s.tb.counter.toNat = (s.tb.counter.extractLsb' 16 16).toNat * 65536 + (s.tb.counter.extractLsb' 0 16).toNat
    have := s.tb.counter.isLt
    simp only [BitVec.extractLsb'_toNat, Nat.shiftRight_eq_div_pow]
    omega
  · refine ⟨?_, fun plain => ?_, fun fresh other => ?_⟩
    · obtain ⟨e, -⟩ | ⟨-, -, e | e⟩ := writeDivider_cases s w
      all_goals
        show (writeDivider w s).tb.divCode.zeroExtend 16 = _
        rw [e]
        exact zeroExtend_low_byte w
    · obtain ⟨e, -⟩ | ⟨fresh, other, -⟩ := writeDivider_cases s w
      · rw [e]
        exact ⟨rfl, rfl⟩
      · cases plain with
        | inl e => rw [e] at fresh; cases fresh
        | inr e => exact absurd e other
    · obtain ⟨-, e | e⟩ | ⟨-, -, e | e⟩ := writeDivider_cases s w
      · rw [e] at fresh; cases fresh
      · exact absurd e other
      · rw [e]
        exact ⟨.inl ⟨rfl, rfl⟩, by rw [← fresh]; rfl, rfl, rfl⟩
      · rw [e]
        exact ⟨.inr ⟨rfl, rfl⟩, by rw [← fresh]; rfl, rfl, rfl⟩

/-- Settles O51: the four registers, then the request bit by bit. -/
theorem interruptRegistersAndLine : Obligations.InterruptRegistersAndLine := by
  refine fun w s => ⟨⟨_, rfl, fun i => ?_, rfl, rfl⟩, ⟨_, rfl, rfl, rfl, rfl⟩, fun high => ⟨_, rfl, rfl, rfl, ?_⟩,
    ⟨_, rfl, ?_, rfl⟩, ?_⟩
  · show (s.irq.flags &&& ~~~w).getLsbD i = _
    rw [BitVec.getLsbD_and, BitVec.getLsbD_not]
    cases set : s.irq.flags.getLsbD i with
    | false => rfl
    | true => rw [decide_eq_true (getLsbD_lt set)]; rfl
  · show (s.irqRequest == high) = _
    cases s.irqRequest <;> cases high <;> rfl
  · exact congrArg (fun n => { s.queue with threshold := n }) (clampThreshold_eq w)
  · exact irqRequest_iff s

end Sys2Proof.Proofs
end

section
/-! PROOFS. The trigger matrix: rate generators, lines and their configuration, the delivery of an event, and what an
assert and a release do at a head (Chapter 2, Sections 3.6, 3.7 and 4.2). -/

namespace Sys2Proof.Machine

variable {s : State} {n : LineIx}

/-! ## Rate generators -/

/-- A state's own port put back. -/
theorem port_put_back {t : State} {p : HostPort} (e : t.port = p) : { t with port := p } = t := by
  subst e
  rfl

theorem RateGen.ticks_eq (r : RateGen) : r.ticks = if r.period.toNat ≤ 1 then 2 else r.period.toNat := by
  simp only [RateGen.ticks]
  split <;> omega

/-- What a register write at a generator leaves: the generator as written, and all else. -/
theorem rate_becomes {g : RateIx} {r : RateGen} {c : Instr} {a : Addr}
    (e : exec c s = .next (afterWrite a (s.setRate g r))) : ∃ t : State, exec c s = .next t
      ∧ t.rate g = r ∧ (∀ k : RateIx, k ≠ g → t.rate k = s.rate k) ∧ { t with rates := s.rates, port := s.port } = s :=
  ⟨_, e, rate_setRate_self s g r, fun _ hk => rate_setRate_ne s hk r, rfl⟩

theorem writeRateCtl_on {g : RateIx} {k : RateRun} (on : (s.rate g).run = some k) (code : Byte) :
    writeRateCtl g true code s = s.setRate g { s.rate g with decimation := code } := by
  have same : ({ s.rate g with decimation := code, run := some k } : RateGen) = { s.rate g with decimation := code } := by
    rw [← on]
  calc writeRateCtl g true code s
      = s.setRate g { s.rate g with decimation := code, run := some ((s.rate g).run.getD ⟨(s.rate g).ticks, 0⟩) } := rfl
    _ = s.setRate g { s.rate g with decimation := code, run := some k } := by rw [on]; rfl
    _ = _ := congrArg (s.setRate g) same

theorem writeRateCtl_fresh {g : RateIx} (off : (s.rate g).run = none) (code : Byte) : writeRateCtl g true code s
    = s.setRate g { s.rate g with
      decimation := code
      run := some ⟨if (s.rate g).period.toNat ≤ 1 then 2 else (s.rate g).period.toNat, 0⟩ } := by
  simp only [writeRateCtl, off, Option.getD_none, if_true, RateGen.ticks_eq]

theorem writeRateCtl_kept (g : RateIx) (code : Byte) (s : State) :
    writeRateCtl g (s.rate g).run.isSome code s = s.setRate g { s.rate g with decimation := code } := by
  cases on : (s.rate g).run with
  | some k => exact writeRateCtl_on on code
  | none =>
    have same : ({ s.rate g with decimation := code, run := none } : RateGen) = { s.rate g with decimation := code } := by
      rw [← on]
    exact congrArg (s.setRate g) same

theorem expirePeriod_counts {g : RateIx} {count : Byte} (due : (s.rate g).run = some ⟨0, count⟩)
    (below : count.toNat + 1 < (s.rate g).decimation.toNat + 1) : expirePeriod g s = s.setRate g { s.rate g with
      run := some ⟨if (s.rate g).period.toNat ≤ 1 then 2 else (s.rate g).period.toNat, count + 1⟩ } := by
  simp only [expirePeriod, due, if_true, if_pos below, RateGen.ticks_eq]

theorem expirePeriod_asserts {g : RateIx} {count : Byte} (due : (s.rate g).run = some ⟨0, count⟩)
    (reached : (s.rate g).decimation.toNat + 1 ≤ count.toNat + 1) : expirePeriod g s
      = deliverAssert (.rate g) s.now allHeads
        (s.setRate g { s.rate g with run := some ⟨max 2 (s.rate g).period.toNat, 0⟩ }) := by
  simp only [expirePeriod, due, if_true, if_neg (Nat.not_lt.2 reached), RateGen.ticks]

theorem expirePeriod_notDue {g : RateIx} (notDue : ∀ k : RateRun, (s.rate g).run = some k → k.left ≠ 0) :
    expirePeriod g s = s := by
  simp only [expirePeriod]
  split
  · rename_i k e
    exact if_neg (notDue k e)
  · rfl

/-! ## Sampling a line (R21) -/

theorem sampleLine_same {high : Bool} (same : s.pin n = high) : sampleLine n high s = s := if_pos same

theorem sampleLine_disabled {high : Bool} (moved : s.pin n ≠ high) (off : (s.line n).qualifier = none) :
    sampleLine n high s = { s with tin := s.tin.set n.val high n.isLt } := by
  simp only [sampleLine, if_neg moved, off]

theorem sampleLine_returns {high : Bool} {q : Qualifier} (moved : s.pin n ≠ high) (on : (s.line n).qualifier = some q)
    (level : q.high = high) : sampleLine n high s = { s with tin := s.tin.set n.val high n.isLt }.setLine n
      { s.line n with qualifier := some ⟨q.high, none⟩ } := by
  simp only [sampleLine, if_neg moved, on, if_pos level.symm]

theorem sampleLine_departs {high : Bool} {q : Qualifier} (moved : s.pin n ≠ high) (on : (s.line n).qualifier = some q)
    (level : q.high ≠ high) (filter : (s.line n).filter ≠ 0) :
    sampleLine n high s = { s with tin := s.tin.set n.val high n.isLt }.setLine n
      { s.line n with qualifier := some ⟨q.high, some ⟨high, (s.line n).filter.toNat⟩⟩ } := by
  simp only [sampleLine, if_neg moved, on, if_neg (Ne.symm level), if_neg filter]

theorem sampleLine_qualifies {high : Bool} {q : Qualifier} (moved : s.pin n ≠ high)
    (on : (s.line n).qualifier = some q) (level : q.high ≠ high) (filter : (s.line n).filter = 0) :
    sampleLine n high s = qualifyLine n high { s with tin := s.tin.set n.val high n.isLt } := by
  simp only [sampleLine, if_neg moved, on, if_neg (Ne.symm level), if_pos filter]

theorem expireFilter_notDue (notDue : ∀ (q : Qualifier) (c : Candidate), (s.line n).qualifier = some q →
    q.candidate = some c → c.left ≠ 0) : expireFilter n s = s := by
  simp only [expireFilter]
  split
  · rename_i q eq
    split
    · rename_i c ec
      exact if_neg (notDue q c eq ec)
    · rfl
  · rfl

theorem expireFilter_due {high : Bool} {q : Qualifier} (on : (s.line n).qualifier = some q)
    (due : q.candidate = some ⟨high, 0⟩) : expireFilter n s = qualifyLine n high s := by
  simp only [expireFilter, on, due, if_true]

/-! ## Delivery (R34) -/

/-- An assert of a qualified level reaches the heads in some order. -/
theorem qualifyLine_asserts {high : Bool} (active : high ≠ (s.line n).activeLow) : ∃ (order : List HeadIx) (k : Nat),
    order.Perm (allHeads.filter fun h => (s.head h).assertReaches (.line n))
    ∧ qualifyLine n high s = order.foldl (fun a h => receiveAssert (.line n) s.now h a)
      { s.setLine n { s.line n with qualifier := some ⟨high, none⟩ } with choices := k } := by
  obtain ⟨order, k, perm, e⟩ := deliverAssert_spec
    (s.setLine n { s.line n with qualifier := some ⟨high, none⟩ }) (.line n) s.now allHeads
  exact ⟨order, k, perm, (if_pos (bne_iff_ne.2 active)).trans e⟩

/-- A release of a qualified level reaches the heads in some order, in turns. -/
theorem qualifyLine_releases {high : Bool} (inactive : high = (s.line n).activeLow) : ∃ (order : List HeadIx) (k : Nat),
    order.Perm (allHeads.filter fun h => (s.head h).releaseReaches n)
    ∧ qualifyLine n high s = inTurn (receiveRelease n) order
      { s.setLine n { s.line n with qualifier := some ⟨high, none⟩ } with choices := k } := by
  obtain ⟨order, k, perm, e⟩ := deliverRelease_spec (s.setLine n { s.line n with qualifier := some ⟨high, none⟩ }) n
  refine ⟨order, k, perm, (if_neg ?_).trans e⟩
  rw [Line.isActive, bne_iff_ne]
  exact not_not_intro inactive

theorem deliverAssert_port (src : Source) (time : Stamp) (heads : List HeadIx) (s : State) :
    (deliverAssert src time heads s).port = s.port := by
  obtain ⟨_, _, _, _, _, _, _, e⟩ := deliverAssert_moved s src time heads
  rw [e]

theorem deliverRelease_port (n : LineIx) (s : State) : (deliverRelease n s).port = s.port := by
  obtain ⟨_, _, _, _, _, _, _, e⟩ := deliverRelease_moved s n
  rw [e]

/-! ## A LINE_CFG write (Table 2.2) -/

theorem releaseIfActive_active {l : Line} {q : Qualifier} (on : l.qualifier = some q) (active : q.high ≠ l.activeLow) :
    releaseIfActive n l s = deliverRelease n s := by
  simp only [releaseIfActive, on, Line.isActive, bne_iff_ne.2 active, if_true]

theorem releaseIfActive_inactive {l : Line} {q : Qualifier} (on : l.qualifier = some q) (inactive : q.high = l.activeLow) :
    releaseIfActive n l s = s := by
  simp only [releaseIfActive, on, Line.isActive, inactive, bne_self_eq_false, if_neg Bool.false_ne_true]

theorem writeLineCfg_on_off {q : Qualifier} (on : (s.line n).qualifier = some q) (low : Bool) (f : Byte) :
    writeLineCfg n false low f s = releaseIfActive n (s.line n) (s.setLine n ⟨low, f, none⟩) := by
  simp only [writeLineCfg, on]

theorem writeLineCfg_on_on {q : Qualifier} (on : (s.line n).qualifier = some q) (low : Bool) (f : Byte) :
    writeLineCfg n true low f s = if low = (s.line n).activeLow then s.setLine n ⟨low, f, some q⟩
      else releaseIfActive n (s.line n) (s.setLine n ⟨low, f, some ⟨s.pin n, none⟩⟩) := by
  simp only [writeLineCfg, on]

theorem writeLineCfg_off_on (off : (s.line n).qualifier = none) (low : Bool) (f : Byte) :
    writeLineCfg n true low f s = s.setLine n ⟨low, f, some ⟨s.pin n, none⟩⟩ := by
  simp only [writeLineCfg, off]

theorem writeLineCfg_off_off (off : (s.line n).qualifier = none) (low : Bool) (f : Byte) :
    writeLineCfg n false low f s = s.setLine n ⟨low, f, none⟩ := by
  simp only [writeLineCfg, off]

/-- A LINE_CFG write of which no event comes: the line as written, and all else as it was. -/
theorem line_quiet {c : Instr} {a : Addr} {u : State} {l : Line} (e : exec c s = .next (afterWrite a u))
    (eu : u = s.setLine n l) : ∃ t : State, exec c s = .next t
      ∧ t.line n = l ∧ (∀ k : LineIx, k ≠ n → t.line k = s.line k) ∧ { t with lines := s.lines, port := s.port } = s :=
  ⟨_, e, eu ▸ line_setLine_self s n l, fun _ hk => eu ▸ line_setLine_ne s hk l, eu ▸ rfl⟩

/-- A LINE_CFG write that delivers the line's release. -/
theorem line_released {c : Instr} {a : Addr} {u : State} {l : Line} (e : exec c s = .next (afterWrite a u))
    (eu : u = deliverRelease n (s.setLine n l)) :
    ∃ (t : State) (order : List HeadIx) (k : Nat), exec c s = .next t
      ∧ order.Perm (allHeads.filter fun h => (s.head h).releaseReaches n)
      ∧ { t with port := s.port } = inTurn (receiveRelease n) order { s.setLine n l with choices := k } := by
  obtain ⟨order, k, perm, d⟩ := deliverRelease_spec (s.setLine n l) n
  refine ⟨_, order, k, e, perm, ?_⟩
  have port : u.port = s.port := by rw [eu]; exact deliverRelease_port n _
  exact (port_put_back port).trans (eu.trans d)

end Sys2Proof.Machine

namespace Sys2Proof.Proofs

open Sys2Proof.Machine

/-- Settles O34: the four rows by the generator's enable, then its expiry. -/
theorem rateGeneratorRegisters : Obligations.RateGeneratorRegisters := by
  refine fun g code s => ⟨fun off => rate_becomes (a := rateLoAddr g + 2) ?_, fun on => ?_, rate_becomes rfl,
    rate_becomes (a := rateLoAddr g + 2) ?_, rate_becomes rfl,
    fun count due below => ?_, fun notDue => congrArg _ (expirePeriod_notDue notDue)⟩
  · exact congrArg (fun u => Host.Outcome.next (afterWrite (rateLoAddr g + 2) u)) (writeRateCtl_fresh off code)
  · obtain ⟨k, on⟩ := Option.isSome_iff_exists.1 on
    exact rate_becomes (congrArg (fun u => Host.Outcome.next (afterWrite (rateLoAddr g + 2) u)) (writeRateCtl_on on code))
  · exact congrArg (fun u => Host.Outcome.next (afterWrite (rateLoAddr g + 2) u)) (writeRateCtl_kept g code s)
  · exact ⟨_, congrArg Host.Outcome.next (expirePeriod_counts due below), rate_setRate_self s g _,
      fun k hk => rate_setRate_ne s hk _, rfl⟩

/-- Settles O33. -/
theorem lineSamplingWithoutEvent : Obligations.LineSamplingWithoutEvent :=
  fun _ _ _ => ⟨fun same => congrArg _ (sampleLine_same same), fun moved off => congrArg _ (sampleLine_disabled moved off),
    fun _ moved on => ⟨fun level => congrArg _ (sampleLine_returns moved on level),
      fun level filter => congrArg _ (sampleLine_departs moved on level filter)⟩,
    fun notDue => congrArg _ (expireFilter_notDue notDue)⟩

/-- Settles O32: Table 2.2 by the line's enable, its qualified level and the polarity written. -/
theorem lineConfigurationWrites : Obligations.LineConfigurationWrites := by
  intro n low f s
  refine ⟨fun off => line_quiet rfl (writeLineCfg_off_on off low f), fun off =>
    ⟨line_quiet rfl (writeLineCfg_off_off off low f), line_quiet rfl ?_⟩, fun q on => ?_⟩
  · rw [Line.enabled, off]
    exact writeLineCfg_off_off off low f
  have enabled : (s.line n).enabled = true := by rw [Line.enabled, on]; rfl
  have written := writeLineCfg_on_on on low f
  have rewritten : writeLineCfg n (s.line n).enabled low f s = _ :=
    (congrArg (writeLineCfg n · low f s) enabled).trans written
  refine ⟨fun inactive => line_quiet rfl ?_, fun active => line_released rfl ?_, fun same => ?_,
    fun other inactive => ?_, fun other active => ?_⟩
  · rw [writeLineCfg_on_off on, releaseIfActive_inactive on inactive]
  · rw [writeLineCfg_on_off on, releaseIfActive_active on active]
  · rw [if_pos same] at written rewritten
    exact ⟨line_quiet rfl rewritten, line_quiet rfl written⟩
  · rw [if_neg other, releaseIfActive_inactive on inactive] at written rewritten
    exact ⟨line_quiet rfl rewritten, line_quiet rfl written⟩
  · rw [if_neg other, releaseIfActive_active on active] at written rewritten
    exact ⟨line_released rfl rewritten, line_released rfl written⟩

/-- Settles O29: turns and grants, a line's event, SOFT, and a generator's assert. -/
theorem eventGoesToEveryReachedHead : Obligations.EventGoesToEveryReachedHead := by
  refine ⟨⟨by decide, by decide⟩, fun act h k rest s => ⟨rfl, rfl, fun none => ?_, fun due => ?_⟩,
    fun n high s u c ⟨q, on, event⟩ => ?_, fun u s => ?_, fun g s count due reached => ?_⟩
  · rw [inTurn_cons_cons]
    obtain ⟨-, e⟩ | ⟨due, -⟩ := grantOrNot_cases (act h s)
    · rw [e]
    · rw [none] at due; cases due
  · rw [inTurn_cons_cons]
    obtain ⟨none, -⟩ | ⟨-, e | e⟩ := grantOrNot_cases (act h s)
    · rw [due] at none; cases none
    · exact .inl (by rw [e])
    · exact .inr ⟨rfl, by rw [e]⟩
  · obtain ⟨rfl, due, rfl⟩ | ⟨rfl, moved, level, filter, rfl⟩ := event
    · refine ⟨fun active => ?_, fun inactive => ?_⟩
      · obtain ⟨order, k, perm, e⟩ := qualifyLine_asserts active
        exact ⟨order, k, perm, congrArg _ ((expireFilter_due on due).trans e)⟩
      · obtain ⟨order, k, perm, e⟩ := qualifyLine_releases inactive
        exact ⟨order, k, perm, congrArg _ ((expireFilter_due on due).trans e)⟩
    · refine ⟨fun active => ?_, fun inactive => ?_⟩
      · obtain ⟨order, k, perm, e⟩ := qualifyLine_asserts (s := { s with tin := s.tin.set n.val high n.isLt }) active
        exact ⟨order, k, perm, congrArg _ ((sampleLine_qualifies moved on level filter).trans e)⟩
      · obtain ⟨order, k, perm, e⟩ := qualifyLine_releases (s := { s with tin := s.tin.set n.val high n.isLt }) inactive
        exact ⟨order, k, perm, congrArg _ ((sampleLine_qualifies moved on level filter).trans e)⟩
  · obtain ⟨p, hp, hr⟩ := commandWord_frame (act := cmdSoftTrigger) (s := s) rfl .softTrigger u
    obtain ⟨order, k, perm, e⟩ := deliverAssert_spec s .soft s.now (maskHeads s.port.arg0)
    refine ⟨_, order, k, rfl, ?_, ?_, ?_⟩
    · rw [hp]
      exact hr
    · rw [maskHeads, List.filter_filter] at perm
      simpa only [Bool.and_comm] using perm
    · rw [hp, ← e]
      exact port_put_back (deliverAssert_port ..)
  · intro u
    obtain ⟨order, k, perm, e⟩ := deliverAssert_spec u (.rate g) s.now allHeads
    exact ⟨order, k, perm, congrArg _ ((expirePeriod_asserts due reached).trans e)⟩

end Sys2Proof.Proofs
end

section
/-! PROOFS. What an assert and a release do at a head, start attempts, exposure starts, paced attempts and strobe
channels (Sections 2.5, 3.6 to 3.10, 4.2 and Chapter 6). -/

namespace Sys2Proof.Machine

variable {s : State} {h : HeadIx} {n : ChanIx}

/-! ## Asserts at a head (Table 3.4, R73) -/

theorem ExpState.running_iff (x : ExpState) : x.running = true ↔
    x ∈ [ExpState.armed, .pacing, .delay, .strobeWait, .exposing, .extending, .blocked] := by
  cases x <;> decide

theorem Head.assertReaches_iff (hd : Head) (src : Source) : hd.assertReaches src = true ↔
    hd.state ∈ [ExpState.armed, .pacing, .delay, .strobeWait, .exposing, .extending, .blocked]
      ∧ hd.ctx.prog.sources.getLsbD src.code = true := by
  simp only [Head.assertReaches, Program.hasSource, Bool.and_eq_true, ExpState.running_iff]

theorem Context.nextTriggered_iff (c : Context) :
    c.nextTriggered = true ↔ c.prog.repetition = .trigger ∨ c.spacing = .stopped := by
  simp only [Context.nextTriggered, Bool.or_eq_true, decide_eq_true_eq]

/-- A head with a start accepted, before its Delay or its attempt (R40, R44, R75). -/
def Head.starting (hd : Head) (p : PendingStart) (src : Source) : Head :=
  { hd with ctx := { hd.ctx with
      pendingStart := some p, startLine := hd.ctx.prog.startLineFor src, latch := none } }

theorem acceptStart_delays {p : PendingStart} {src : Source} (delay : (s.head h).ctx.prog.delay ≠ 0) :
    acceptStart h p src s = s.setHead h { (s.head h).starting p src with
      state := .delay
      timers := { HeadTimers.stopped with delay := some (s.head h).ctx.prog.delay.toNat } } := by
  simp only [acceptStart, modHead_eq_setHead, if_neg delay, head_setHead_self, setHead_setHead]
  rfl

theorem acceptStart_attempts {p : PendingStart} {src : Source} (delay : (s.head h).ctx.prog.delay = 0) :
    acceptStart h p src s = attemptStart h (s.setHead h ((s.head h).starting p src)) := by
  simp only [acceptStart, modHead_eq_setHead, if_pos delay]
  rfl

section Assert

variable {src : Source} {time : Stamp}

theorem receiveAssert_misses (misses : ¬ (s.head h).assertReaches src = true) : receiveAssert src time h s = s :=
  if_neg misses

theorem receiveAssert_armed (reaches : (s.head h).assertReaches src = true) (state : (s.head h).state = .armed) :
    receiveAssert src time h s = acceptStart h ⟨.triggered src, time, 0⟩ src s := by
  simp only [receiveAssert, if_pos reaches, state]

theorem receiveAssert_early (reaches : (s.head h).assertReaches src = true)
    (state : (s.head h).state ∈ [ExpState.delay, .strobeWait, .exposing, .extending, .pacing]) :
    receiveAssert src time h s = dropTrigger h .early (some src) time s := by
  simp only [List.mem_cons, List.not_mem_nil, or_false] at state
  obtain e | e | e | e | e := state <;> simp only [receiveAssert, if_pos reaches, e]

theorem receiveAssert_latches (reaches : (s.head h).assertReaches src = true) (state : (s.head h).state = .blocked)
    (triggered : (s.head h).ctx.nextTriggered = true) (empty : (s.head h).ctx.latch = none) :
    receiveAssert src time h s
      = s.modHead h fun hd => { hd with ctx := { hd.ctx with latch := some ⟨src, time, 0⟩ } } := by
  simp only [receiveAssert, if_pos reaches, state, if_pos triggered, empty]

theorem receiveAssert_latchFull {l : Latch} (reaches : (s.head h).assertReaches src = true)
    (state : (s.head h).state = .blocked) (triggered : (s.head h).ctx.nextTriggered = true)
    (full : (s.head h).ctx.latch = some l) :
    receiveAssert src time h s = dropTrigger h .latchFull (some src) time s := by
  simp only [receiveAssert, if_pos reaches, state, if_pos triggered, full]

theorem receiveAssert_paced (reaches : (s.head h).assertReaches src = true) (state : (s.head h).state = .blocked)
    (paced : ¬ (s.head h).ctx.nextTriggered = true) :
    receiveAssert src time h s = dropTrigger h .early (some src) time s := by
  simp only [receiveAssert, if_pos reaches, state, if_neg paced]

end Assert

/-! ## Releases at a head (R33, R47, R55) -/

section Release

variable {n : LineIx}

theorem Head.releaseReaches_iff (hd : Head) (n : LineIx) : hd.releaseReaches n = true ↔
    hd.state.running = true ∧ hd.ctx.prog.length = .width ∧ hd.ctx.startLine = some n := by
  simp only [Head.releaseReaches, Bool.and_eq_true, decide_eq_true_eq, and_assoc]

theorem receiveRelease_misses (misses : ¬ (s.head h).releaseReaches n = true) : receiveRelease n h s = s := if_neg misses

theorem receiveRelease_starting (reaches : (s.head h).releaseReaches n = true)
    (state : (s.head h).state = .delay ∨ (s.head h).state = .strobeWait) :
    receiveRelease n h s = shortStart h n s := by
  obtain e | e := state <;> simp only [receiveRelease, if_pos reaches, e]

theorem receiveRelease_exposing (reaches : (s.head h).releaseReaches n = true) (state : (s.head h).state = .exposing) :
    receiveRelease n h s = endCondition h false s := by
  simp only [receiveRelease, if_pos reaches, state]

theorem receiveRelease_idles (state : (s.head h).state ∈ [ExpState.armed, .pacing, .extending, .blocked]) :
    receiveRelease n h s = s := by
  simp only [receiveRelease]
  split
  · simp only [List.mem_cons, List.not_mem_nil, or_false] at state
    obtain e | e | e | e := state <;> simp only [e]
  · rfl

theorem shortStart_pending {p : PendingStart} (pending : (s.head h).ctx.pendingStart = some p) :
    shortStart h n s = dropTrigger h .short (some (.line n)) p.arrival ((leaveWaiters h s).setHead h { s.head h with
      state := .armed
      ctx := { (s.head h).ctx with pendingStart := none, startLine := none }
      timers := HeadTimers.stopped }) := by
  simp only [shortStart, pending]
  rfl

end Release

/-! ## The start attempt (Table 6.2) -/

theorem Program.channel_none {p : Program} (e : p.strobe = 0) : p.channel = none := by
  simp only [Program.channel, e]
  rfl

theorem Program.channel_eq {p : Program} (e : p.strobe.toNat = n.val + 1) : p.channel = some n := by
  simp only [Program.channel, e]
  rw [dif_pos (by omega)]
  rfl

theorem Program.channel_isSome (p : Program) : p.channel.isSome = true ↔ 1 ≤ p.strobe.toNat ∧ p.strobe.toNat ≤ 4 := by
  simp only [Program.channel]
  split <;> simp [*]

theorem attemptStart_none (e : (s.head h).ctx.prog.channel = none) : attemptStart h s = startExposure h false s := by
  simp only [attemptStart, e]

theorem attemptStart_claims (e : (s.head h).ctx.prog.channel = some n) : attemptStart h s = claim h n s := by
  simp only [attemptStart, e]

theorem claim_disabled (off : (s.chan n).enabled = false) : claim h n s = startExposure h false s := by
  simp only [claim, off]
  rfl

theorem claim_free (on : (s.chan n).enabled = true) (free : (s.chan n).holder = none) :
    claim h n s = startExposure h true (s.setChan n { s.chan n with holder := some h }) := by
  simp only [claim, on, free]
  rfl

theorem claim_dark (on : (s.chan n).enabled = true) (held : (s.chan n).holder ≠ none)
    (policy : (s.head h).ctx.prog.policy = .dark) : claim h n s = startExposure h false s := by
  obtain ⟨k, e⟩ := Option.ne_none_iff_exists'.1 held
  simp only [claim, on, e, policy]
  rfl

theorem claim_waits (on : (s.chan n).enabled = true) (held : (s.chan n).holder ≠ none)
    (policy : (s.head h).ctx.prog.policy = .wait) : claim h n s = (s.setHead h { s.head h with
        state := .strobeWait
        timers := { HeadTimers.stopped with strobeWait := some (s.head h).ctx.prog.strobeWait.toNat } }).setChan n
      { s.chan n with waiters := (s.chan n).waiters ++ [h] } := by
  obtain ⟨k, e⟩ := Option.ne_none_iff_exists'.1 held
  simp only [claim, on, e, policy]
  rw [← e]
  rfl

theorem expireDelay_due (state : (s.head h).state = .delay) (timer : (s.head h).timers.delay = some 0) :
    expireDelay h s = attemptStart h (s.setHead h { s.head h with timers := { (s.head h).timers with delay := none } }) :=
  if_pos (by rw [Head.delayDue, state, timer]; rfl)

theorem expireDelay_notDue (notDue : (s.head h).state ≠ .delay ∨ (s.head h).timers.delay ≠ some 0) :
    expireDelay h s = s := by
  refine if_neg fun due => ?_
  rw [Head.delayDue, Bool.and_eq_true, decide_eq_true_eq, decide_eq_true_eq] at due
  exact notDue.elim (absurd due.1) (absurd due.2)

/-! ## Strobe channels: the release (R103, R104) -/

theorem heldBy_unique (holder : (s.chan n).holder = some h)
    (unique : ∀ k : ChanIx, (s.chan k).holder = some h → k = n) : s.heldBy h = some n := by
  cases e : s.heldBy h with
  | none => exact absurd holder (heldBy_none e n)
  | some k => rw [unique k (heldBy_some e)]

end Sys2Proof.Machine

namespace Sys2Proof.Proofs

open Sys2Proof.Machine

/-- Settles O30: Table 3.4 state by state. -/
theorem assertOutcomeByState : Obligations.AssertOutcomeByState := by
  intro src time h s hd reaches starting startsWith accepted
  have key : hd.assertReaches src = true ↔ reaches := by
    cases src <;> exact Head.assertReaches_iff hd _
  have started (p : PendingStart) : hd.starting p src = startsWith p := by
    have line : hd.ctx.prog.startLineFor src = starting := by
      simp only [Program.startLineFor, starting]
      cases hd.ctx.prog.length <;> cases src <;> rfl
    simp only [Head.starting, line, startsWith]
  refine ⟨ExpState.running_iff _, key, fun p => ⟨fun delay => ?_, fun delay => ?_⟩,
    fun misses => receiveAssert_misses (mt key.1 misses), fun r armed delay => ?_, fun r armed delay => ?_,
    fun r early => receiveAssert_early (key.2 r) early, fun r blocked triggered => ?_, fun r blocked timer runs => ?_⟩
  · rw [← started]
    exact acceptStart_delays delay
  · rw [← started]
    exact acceptStart_attempts delay
  · rw [receiveAssert_armed (key.2 r) armed, acceptStart_delays delay]
    exact congrArg (fun x : Head => s.setHead h { x with
      state := .delay, timers := { HeadTimers.stopped with delay := some hd.ctx.prog.delay.toNat } }) (started _)
  · rw [receiveAssert_armed (key.2 r) armed, acceptStart_attempts delay]
    exact congrArg (fun x : Head => attemptStart h (s.setHead h x)) (started _)
  · have triggered := (Context.nextTriggered_iff _).2 triggered
    refine ⟨receiveAssert_latches (key.2 r) blocked triggered, fun full => ?_⟩
    obtain ⟨l, e⟩ := Option.ne_none_iff_exists'.1 full
    exact receiveAssert_latchFull (key.2 r) blocked triggered e
  · refine receiveAssert_paced (key.2 r) blocked ?_
    rw [Context.nextTriggered_iff, timer, not_or]
    exact ⟨fun e => (by cases e), runs⟩

/-- Settles O31. -/
theorem releaseOutcomeByState : Obligations.ReleaseOutcomeByState := by
  intro n h s hd reaches
  have key : hd.releaseReaches n = true ↔ reaches := Head.releaseReaches_iff hd n
  refine ⟨key, fun misses => receiveRelease_misses (mt key.1 misses), fun p r state pending => ?_,
    fun r state => receiveRelease_exposing (key.2 r) state, fun _ state => receiveRelease_idles state⟩
  rw [receiveRelease_starting (key.2 r) state, shortStart_pending pending]

/-- Settles O35: Table 6.2, then the delay's expiry. -/
theorem delayExpiryMakesTheAttempt : Obligations.DelayExpiryMakesTheAttempt := by
  refine fun h s => ⟨fun p pending => ?_, fun state timer => congrArg _ (expireDelay_due state timer),
    fun notDue => congrArg _ (expireDelay_notDue notDue)⟩
  intro unlocked
  have dark : startExposure h false s = unlocked := startExposure_some s h pending false
  refine ⟨fun none => (attemptStart_none (Program.channel_none none)).trans dark, fun n names => ?_⟩
  rw [attemptStart_claims (Program.channel_eq names)]
  refine ⟨fun off => (claim_disabled off).trans dark, fun on free => ?_,
    fun on held policy => (claim_dark on held policy).trans dark, fun on held policy => claim_waits on held policy⟩
  rw [claim_free on free, startExposure_setChan, startExposure_some s h pending]

/-- Settles O42. -/
theorem releaseHandsTheChannelOn : Obligations.ReleaseHandsTheChannelOn := by
  refine fun h s => ⟨releaseStrobe_free, fun n holder unique => ?_⟩
  have e : releaseStrobe h s = releaseAt n s := by
    simp only [releaseStrobe, heldBy_unique holder unique]
  rw [e]
  refine ⟨fun none => ?_, fun w ws p waits pending => ?_⟩
  · simp only [releaseAt, none]
  · simp only [releaseAt, waits, startExposure_setChan, startExposure_some s w pending]

end Sys2Proof.Proofs
end

section
/-! PROOFS. Exposure starts, paced attempts, the expiry of a strobe wait, and STROBE_CFG (Sections 3.8, 3.10, 6.5 to 6.7). -/

namespace Sys2Proof.Machine

variable {s : State} {h : HeadIx} {n : ChanIx}

/-! ## Exposure starts -/

theorem SpacingTimer.overdue_iff (x : SpacingTimer) :
    x.overdue = true ↔ ∃ (n : Word) (time : Stamp), x = .expired n time ∧ n ≠ 0 := by
  cases x with
  | stopped | running => exact ⟨fun e => (by cases e), fun ⟨_, _, e, _⟩ => (by cases e)⟩
  | expired n time =>
    rw [SpacingTimer.overdue, decide_eq_true_eq]
    exact ⟨fun ne => ⟨n, time, rfl, ne⟩, fun ⟨_, _, e, ne⟩ => by cases e; exact ne⟩

/-- Whether a start is late (R59). -/
theorem late_iff (p : PendingStart) (c : Context) : (decide (p.kind = .paced) && c.spacing.overdue) = true ↔
    p.kind = .paced ∧ ∃ (n : Word) (time : Stamp), c.spacing = .expired n time ∧ n ≠ 0 := by
  rw [Bool.and_eq_true, decide_eq_true_eq, SpacingTimer.overdue_iff]

/-- Whether an exposure is dark (R52). -/
theorem dark_iff (p : Program) (locked : Bool) : (p.channel.isSome && !locked) = true ↔
    (1 ≤ p.strobe.toNat ∧ p.strobe.toNat ≤ 4) ∧ locked = false := by
  rw [Bool.and_eq_true, Program.channel_isSome, Bool.not_eq_true']

/-! ## PACING (R58) -/

/-- A head that enters PACING, before the attempt that an expired spacing timer asks for. -/
def Head.paces (hd : Head) : Head := { hd with state := .pacing, timers := HeadTimers.stopped }

theorem Head.paces_of_pacing {hd : Head} (state : hd.state = .pacing) :
    hd.paces = { hd with timers := HeadTimers.stopped } := by
  rw [Head.paces, ← state]

theorem enterPacing_running {k : Nat} (e : (s.head h).ctx.spacing = .running k) :
    enterPacing h s = s.setHead h (s.head h).paces := by
  have own : (s.setHead h (s.head h).paces).head h = (s.head h).paces := head_setHead_self ..
  show (match ((s.setHead h (s.head h).paces).head h).ctx.spacing with
    | .expired n t => pacedAttempt h n t (s.setHead h (s.head h).paces)
    | .running _ | .stopped => s.setHead h (s.head h).paces) = _
  rw [own, show (s.head h).paces.ctx.spacing = _ from e]

theorem enterPacing_expired {k : Word} {time : Stamp} (e : (s.head h).ctx.spacing = .expired k time) :
    enterPacing h s = pacedAttempt h k time (s.setHead h (s.head h).paces) := by
  have own : (s.setHead h (s.head h).paces).head h = (s.head h).paces := head_setHead_self ..
  show (match ((s.setHead h (s.head h).paces).head h).ctx.spacing with
    | .expired n t => pacedAttempt h n t (s.setHead h (s.head h).paces)
    | .running _ | .stopped => s.setHead h (s.head h).paces) = _
  rw [own, show (s.head h).paces.ctx.spacing = _ from e]

theorem pacedAttempt_setHead (h : HeadIx) (k : Word) (time : Stamp) (y : Head) (s : State) :
    pacedAttempt h k time (s.setHead h y) = attemptStart h (s.setHead h { y with
      ctx := { y.ctx with pendingStart := some ⟨.paced, time, k⟩ }, timers := { y.timers with retry := .none } }) := by
  simp only [pacedAttempt, modHead_eq_setHead, head_setHead_self, setHead_setHead]

theorem expireSpacing_waits (due : (s.head h).ctx.spacing = .running 0) (state : (s.head h).state ≠ .pacing) :
    expireSpacing h s
      = s.setHead h { s.head h with ctx := { (s.head h).ctx with spacing := .expired 0 s.now } } :=
  (if_pos (decide_eq_true due)).trans (if_neg state)

theorem expireSpacing_paces (due : (s.head h).ctx.spacing = .running 0) (state : (s.head h).state = .pacing) :
    expireSpacing h s = pacedAttempt h 0 s.now
      (s.setHead h { s.head h with ctx := { (s.head h).ctx with spacing := .expired 0 s.now } }) :=
  (if_pos (decide_eq_true due)).trans (if_pos state)

theorem expireSpacing_notDue (notDue : (s.head h).ctx.spacing ≠ .running 0) : expireSpacing h s = s :=
  if_neg (mt of_decide_eq_true notDue)

/-! ## The expiry of a strobe wait (R105) -/

theorem strobeWaitDue_iff (hd : Head) :
    hd.strobeWaitDue = true ↔ hd.state = .strobeWait ∧ hd.timers.strobeWait = some 0 := by
  rw [Head.strobeWaitDue, Bool.and_eq_true, decide_eq_true_eq, decide_eq_true_eq]

theorem retryDue_iff (hd : Head) : hd.retryDue = true ↔ hd.state = .pacing ∧ hd.timers.retry = .due := by
  rw [Head.retryDue, Bool.and_eq_true, decide_eq_true_eq, decide_eq_true_eq]

/-- The drop of a start whose strobe wait has expired. -/
def waitDropped (h : HeadIx) (source : Option Source) (p : PendingStart) (s : State) : State :=
  dropTrigger h .strobeTimeout source p.arrival ((leaveWaiters h s).setHead h (s.head h).rearmed)

theorem waitDropped_ctx (h : HeadIx) (source : Option Source) (p : PendingStart) (s : State) :
    ((waitDropped h source p s).head h).ctx = { (s.head h).ctx with pendingStart := none, startLine := none } := by
  rw [waitDropped, dropTrigger_ctx, head_setHead_self, Head.rearmed]

section StrobeWait

variable {p : PendingStart}

theorem expireStrobeWait_triggered {src : Source} (due : (s.head h).strobeWaitDue = true)
    (pending : (s.head h).ctx.pendingStart = some p) (kind : p.kind = .triggered src ∨ p.kind = .latched src) :
    expireStrobeWait h s = waitDropped h (some src) p s := by
  obtain e | e := kind <;> simp only [expireStrobeWait, if_pos due, pending, e] <;> rfl

theorem expireStrobeWait_paced (due : (s.head h).strobeWaitDue = true)
    (pending : (s.head h).ctx.pendingStart = some p) (kind : p.kind = .paced) :
    expireStrobeWait h s = if (s.head h).ctx.prog.strobeWait = 0 then
        (waitDropped h none p s).modHead h fun hd =>
          { hd with state := .pacing, timers := { HeadTimers.stopped with retry := .waiting } }
      else enterPacing h (waitDropped h none p s) := by
  have prog : ((waitDropped h none p s).head h).ctx.prog = (s.head h).ctx.prog := by rw [waitDropped_ctx]
  rw [← prog]
  simp only [expireStrobeWait, if_pos due, pending, kind]
  rfl

end StrobeWait

/-! ## STROBE_CFG (R108, R110) -/

theorem disableStrobe_moved (n : ChanIx) (s : State) : Moved s (disableStrobe n s) := by
  have start (s : State) (w : HeadIx) : Moved s (startExposure w false s) := by
    obtain ⟨hd, e⟩ := startExposure_frame s w false
    rw [e]
    exact ⟨_, s.chans, s.arb, s.link, s.queue, s.irq, s.choices, rfl⟩
  simp only [disableStrobe]
  refine Moved.trans ?_ (Moved.foldl _ _ start _)
  split
  all_goals exact ⟨_, _, s.arb, s.link, s.queue, s.irq, s.choices, rfl⟩

theorem setStrobe_same (enable low : Bool) (same : (s.chan n).enabled = enable) :
    setStrobe n enable low s = s.setChan n { s.chan n with activeLow := low } := by
  subst same
  cases e : (s.chan n).enabled <;> simp only [setStrobe, e]

theorem setStrobe_on (low : Bool) (off : (s.chan n).enabled = false) :
    setStrobe n true low s = s.setChan n { s.chan n with activeLow := low, enabled := true } := by
  simp only [setStrobe, off, chan_setChan_self, setChan_setChan]

theorem setStrobe_off (low : Bool) (on : (s.chan n).enabled = true) :
    setStrobe n false low s = disableStrobe n (s.setChan n { s.chan n with activeLow := low }) := by
  simp only [setStrobe, on]

theorem setStrobe_port (n : ChanIx) (enable low : Bool) (s : State) : (setStrobe n enable low s).port = s.port := by
  by_cases same : (s.chan n).enabled = enable
  · rw [setStrobe_same enable low same, setChan_port]
  cases enable with
  | true => rw [setStrobe_on low (by simpa using same), setChan_port]
  | false =>
    obtain ⟨_, _, _, _, _, _, _, e⟩ := disableStrobe_moved n (s.setChan n { s.chan n with activeLow := low })
    rw [setStrobe_off low (by simpa using same), e, setChan_port]

/-- Starting exposures does not read the host port. -/
theorem startExposure_at_port (w : HeadIx) (locked : Bool) (p : HostPort) (s : State) :
    startExposure w locked { s with port := p } = { startExposure w locked s with port := p } := by
  have own : State.head { s with port := p } w = s.head w := rfl
  cases e : (s.head w).ctx.pendingStart with
  | none => rw [startExposure_none _ w (own ▸ e), startExposure_none s w e]
  | some x => rw [startExposure_some _ w (own ▸ e), startExposure_some s w e]; rfl

theorem disableStrobe_at_port (n : ChanIx) (p : HostPort) (s : State) :
    disableStrobe n { s with port := p } = { disableStrobe n s with port := p } := by
  have fold (l : List HeadIx) (s : State) : l.foldl (fun a w => startExposure w false a) { s with port := p }
      = { l.foldl (fun a w => startExposure w false a) s with port := p } := by
    induction l generalizing s with
    | nil => rfl
    | cons w ws ih => rw [List.foldl_cons, startExposure_at_port, ih, List.foldl_cons]
  have chan : State.chan { s with port := p } n = s.chan n := rfl
  simp only [disableStrobe, chan, ← fold]
  split <;> rfl

/-- A word that changes both settings of a channel acts as the polarity's row and then the enable's. -/
theorem setStrobe_after_polarity (enable low : Bool) (p : HostPort) :
    setStrobe n enable low { s.setChan n { s.chan n with activeLow := low } with port := p }
      = { setStrobe n enable low s with port := p } := by
  have own : State.chan { s.setChan n { s.chan n with activeLow := low } with port := p } n
      = { s.chan n with activeLow := low } := chan_setChan_self s n _
  have write (c : Channel) : State.setChan { s.setChan n { s.chan n with activeLow := low } with port := p } n c
      = { s.setChan n c with port := p } := by
    rw [← setChan_setChan s n { s.chan n with activeLow := low } c]
    rfl
  by_cases same : (s.chan n).enabled = enable
  · rw [setStrobe_same enable low same, setStrobe_same enable low (by rw [own]; exact same), own, write]
  cases enable with
  | true =>
    have off : (s.chan n).enabled = false := by simpa using same
    rw [setStrobe_on low off, setStrobe_on low (by rw [own]; exact off), own, write]
  | false =>
    have on : (s.chan n).enabled = true := by simpa using same
    rw [setStrobe_off low on, setStrobe_off low (by rw [own]; exact on), own, write, disableStrobe_at_port]

/-- What a STROBE_CFG row that changes one channel alone leaves. -/
theorem chan_becomes {i : Instr} {a : Addr} {u : State} {c : Channel} (e : exec i s = .next (afterWrite a u))
    (eu : u = s.setChan n c) : ∃ t : State, exec i s = .next t
      ∧ t.chan n = c ∧ (∀ k : ChanIx, k ≠ n → t.chan k = s.chan k) ∧ { t with chans := s.chans, port := s.port } = s :=
  ⟨_, e, eu ▸ chan_setChan_self s n c, fun _ hk => eu ▸ chan_setChan_ne s hk c, eu ▸ rfl⟩

end Sys2Proof.Machine

namespace Sys2Proof.Proofs

open Sys2Proof.Machine

/-- Settles O36: the state, context and timers from the start's frame, the group by whether one is open. -/
theorem exposureStartOpensTheGroup : Obligations.ExposureStartOpensTheGroup := by
  refine ⟨fun h s p locked pending => startExposure_some s h pending locked, fun hd now p locked => ?_⟩
  intro prog t late dark
  obtain ⟨g, r, e⟩ := Head.startExposure_frame hd now p locked
  have e : t = _ := e
  have group := Head.startExposure_group hd now p locked
  have ring := Head.startExposure_ring hd now p locked
  refine ⟨by rw [e], by rw [e], by rw [e], by rw [e] <;> rfl, by rw [e], by rw [e] <;> rfl,
    by rw [e] <;> rfl, by rw [e] <;> rfl,
    fun length => ?_, fun length => ?_, by rw [e], by rw [e], fun g opened => ?_, fun none => ?_⟩
  · have length : hd.ctx.prog.length = .width := length
    rw [e, length]
    exact ⟨rfl, rfl⟩
  · have length : hd.ctx.prog.length = .timed := length
    rw [e, length]
    exact ⟨rfl, rfl⟩
  · rw [Head.openGroup_some _ _ _ opened] at group ring
    rw [opened] at group
    refine ⟨ring, _, group, rfl, ?_, ?_⟩
    · rw [Bool.or_eq_true, late_iff]
    · rw [Bool.or_eq_true, dark_iff]
  · rw [Head.openGroup_none _ _ _ none] at group ring
    refine ⟨ring, _, group, rfl, ?_, ?_⟩
    · exact late_iff p hd.ctx
    · exact dark_iff prog locked

/-- Settles O39: the spacing expiry and the attempt at the next tick of the overdue count. -/
theorem pacedAttempts : Obligations.PacedAttempts := by
  refine fun h s => ⟨fun _ _ => rfl, fun due state => congrArg _ (expireSpacing_waits due state), fun due state => ?_,
    fun notDue => congrArg _ (expireSpacing_notDue notDue), fun n time state retry spacing => ?_, fun notDue => ?_⟩
  · exact congrArg _ ((expireSpacing_paces due state).trans (pacedAttempt_setHead ..))
  · have due := (retryDue_iff (s.head h)).2 ⟨state, retry⟩
    refine congrArg Host.Outcome.next ((if_pos due).trans ((enterPacing_expired spacing).trans ?_))
    rw [Head.paces_of_pacing state]
    exact pacedAttempt_setHead ..
  · refine congrArg _ (if_neg fun due => ?_)
    obtain ⟨state, retry⟩ := (retryDue_iff _).1 due
    exact notDue.elim (absurd state) (absurd retry)

/-- Settles O40: the expiry by the kind of the start. -/
theorem strobeWaitExpiryDropsTheStart : Obligations.StrobeWaitExpiryDropsTheStart := by
  refine fun h s p => ⟨chan_leaveWaiters s h, rfl, fun ⟨state, timer, pending⟩ => ?_, fun notDue => ?_⟩
  · have due := (strobeWaitDue_iff (s.head h)).2 ⟨state, timer⟩
    refine ⟨fun src kind => congrArg _ (expireStrobeWait_triggered due pending kind), fun kind zero => ?_,
      fun n time kind nonzero spacing => ?_⟩
    · exact congrArg _ ((expireStrobeWait_paced due pending kind).trans (if_pos zero))
    · refine congrArg _ ((expireStrobeWait_paced due pending kind).trans ((if_neg nonzero).trans
        (enterPacing_expired ?_)))
      rw [waitDropped_ctx]
      exact spacing
  · refine congrArg _ (if_neg fun due => ?_)
    obtain ⟨state, timer⟩ := (strobeWaitDue_iff _).1 due
    exact notDue.elim (absurd state) (absurd timer)

/-- Settles O41: the rows through setStrobe, then each by the channel's enable. -/
theorem strobeConfigurationWrites : Obligations.StrobeConfigurationWrites := by
  intro n s c quiet sets
  have setsRow {i : Instr} {enable low : Bool}
      (e : exec i s = .next (afterWrite strobeCfgAddr (setStrobe n enable low s))) : sets i enable low :=
    ⟨_, e, port_put_back (setStrobe_port ..)⟩
  have same (low : Bool) := setStrobe_same (n := n) (s := s) c.enabled low rfl
  refine ⟨setsRow rfl, setsRow rfl, fun low => setsRow rfl, fun enable low =>
    ⟨_, afterWrite strobeCfgAddr (setStrobe n enable low (afterWrite strobeCfgAddr (setStrobe n c.enabled low s))),
      rfl, ?_, ?_⟩, chan_becomes rfl ?_,
    fun off => chan_becomes rfl ?_, fun on => ⟨_, rfl, ?_⟩, fun low => ⟨chan_becomes rfl (same low), fun t e => ?_⟩⟩
  · have own : (State.chan (afterWrite strobeCfgAddr (setStrobe n c.enabled low s)) n).activeLow = low := by
      rw [same, chan_afterWrite, chan_setChan_self]
    cases enable <;> exact congrArg (fun low => Host.Outcome.next (afterWrite strobeCfgAddr
      (setStrobe n _ low (afterWrite strobeCfgAddr (setStrobe n c.enabled _ s))))) own
  · rw [same]
    have acts := setStrobe_after_polarity (n := n) (s := s) enable low (afterWrite strobeCfgAddr s).port
    exact ((congrArg (fun u => { u with port := s.port }) acts).trans (port_put_back (setStrobe_port ..))).symm
  · cases e : c.enabled with
    | true =>
      refine (setStrobe_same true c.activeLow e).trans (congrArg (s.setChan n) ?_)
      rw [← e]
    | false => exact setStrobe_on c.activeLow e
  · exact setStrobe_same false c.activeLow off
  · have kept : s.setChan n { s.chan n with activeLow := c.activeLow } = s := setChan_chan s n
    refine (port_put_back (setStrobe_port ..)).trans ((setStrobe_off c.activeLow on).trans ?_)
    rw [kept]
    cases e : c.holder <;> simp only [disableStrobe, show (s.chan n).holder = _ from e] <;> rfl
  · cases e
    have own : State.chan (afterWrite strobeCfgAddr (setStrobe n c.enabled low s)) n = { c with activeLow := low } := by
      rw [same, chan_afterWrite, chan_setChan_self]
    refine (congrArg (fun x : Channel => x.held != x.activeLow) own).trans ?_
    show ((c.enabled && c.holder.isSome) != low) = _
    cases c.enabled <;> cases c.holder <;> cases low <;> rfl

end Sys2Proof.Proofs
end

section
/-! PROOFS. The course of a burst after a group completion, the end condition of an exposure, and a held group's
completion (Sections 3.9, 3.11, 3.12 and 4.6). -/

namespace Sys2Proof.Machine

variable {s : State} {h : HeadIx}

/-! ## The course of a burst (R62 to R66) -/

theorem Program.linkEntry_none {p : Program} (e : p.link = 0) : p.linkEntry = none := by
  simp only [Program.linkEntry, e]
  rfl

theorem decideBurst_stopped (stop : (s.head h).ctx.stopPending = true) : decideBurst h s
    = enterDraining h (offer h (.burstEnd .stopped none (s.head h).ctx.progIndex none) s) := by
  simp only [decideBurst, stop, if_true]

theorem decideBurst_unlinked (stop : (s.head h).ctx.stopPending = false) (burst : (s.head h).ctx.prog.burst ≠ 0)
    (reached : (s.head h).ctx.groupsDone = (s.head h).ctx.prog.burst) (link : (s.head h).ctx.prog.link = 0) :
    decideBurst h s = enterDraining h (offer h (.burstEnd .complete none (s.head h).ctx.progIndex none) s) := by
  simp only [decideBurst, stop, Program.linkEntry_none link]
  rw [if_neg Bool.false_ne_true, if_pos ⟨burst, reached⟩]

/-- A burst that goes on: BLOCKED under STRICT, else armed or pacing (R65). -/
theorem decideBurst_continues (stop : (s.head h).ctx.stopPending = false)
    (more : (s.head h).ctx.prog.burst = 0 ∨ (s.head h).ctx.groupsDone ≠ (s.head h).ctx.prog.burst) : decideBurst h s =
      match (s.head h).ctx.prog.overlap, (s.head h).ctx.prog.repetition with
      | .strict, _ => s.setHead h { s.head h with state := .blocked }
      | .overlap, .trigger => s.setHead h { s.head h with state := .armed }
      | .overlap, .timer => enterPacing h s := by
  simp only [decideBurst, stop]
  rw [if_neg Bool.false_ne_true, if_neg fun reached => more.elim (absurd · reached.1) (absurd reached.2)]
  rfl

/-- A head that has loaded its successor (R64). -/
def Head.chained (hd : Head) (n : EntryIx) (p : Program) : Head :=
  { hd with
    state := match p.overlap with
      | .strict => .blocked
      | .overlap => .armed
    ctx := Context.load n p
    timers := HeadTimers.stopped }

/-- A chain to an accepted entry: the END record is offered, and the entry is loaded (R64). -/
theorem chainTo_accepted {n : EntryIx} (accepted : validate (s.entry n) = none) :
    let o := offer h (.burstEnd .complete none (s.head h).ctx.progIndex (some n)) s
    chainTo h n s = o.setHead h ((o.head h).chained n (s.entry n).prog) := by
  intro o
  have own : (s.setHead h ((s.head h).chained n (s.entry n).prog)).head h = (s.head h).chained n (s.entry n).prog :=
    head_setHead_self ..
  obtain ⟨k, l, r, q, i, e, e'⟩ := offer_agree (s := s) (s' := s.setHead h ((s.head h).chained n (s.entry n).prog)) h
    (.burstEnd .complete none (s.head h).ctx.progIndex (some n)) rfl rfl (by rw [own]; rfl) (by rw [own]; rfl)
    (by rw [own]; rfl)
  have e : o = _ := e
  have chain : chainTo h n s = offer h (.burstEnd .complete none (s.head h).ctx.progIndex (some n))
      (s.setHead h ((s.head h).chained n (s.entry n).prog)) := by
    simp only [chainTo, accepted]
    rfl
  have oh : o.head h = { s.head h with seq := k, lost := l, restart := r } := by
    rw [e]; exact head_setHead_self ..
  rw [chain, e', own, setHead_setHead, oh, e, setHead_written]
  rfl

/-! ## A release beside a changed head -/

theorem setHead_comm {k : HeadIx} (hk : k ≠ h) (x y : Head) :
    (s.setHead h x).setHead k y = (s.setHead k y).setHead h x := by
  simp only [State.setHead]
  rw [Vector.set_comm _ _ fun e => hk (Fin.ext e.symm)]

theorem startExposure_setHead_ne {w : HeadIx} (hw : w ≠ h) (locked : Bool) (y : Head) (s : State) :
    startExposure w locked (s.setHead h y) = (startExposure w locked s).setHead h y := by
  have own : (s.setHead h y).head w = s.head w := head_setHead_ne s hw y
  cases e : (s.head w).ctx.pendingStart with
  | none => rw [startExposure_none _ w (by rw [own]; exact e), startExposure_none s w e]
  | some p => rw [startExposure_some _ w (by rw [own]; exact e), startExposure_some s w e, own, setHead_comm hw]; rfl

/-- The release of a head's channel does not touch a head that waits nowhere. -/
theorem releaseStrobe_setHead (notIn : ∀ n, h ∉ (s.chan n).waiters) (y : Head) :
    releaseStrobe h (s.setHead h y) = (releaseStrobe h s).setHead h y := by
  have held : (s.setHead h y).heldBy h = s.heldBy h := rfl
  simp only [releaseStrobe, held]
  cases s.heldBy h with
  | none => rfl
  | some n =>
    cases waits : (s.chan n).waiters with
    | nil => simp only [releaseAt, chan_setHead, waits]; rfl
    | cons w ws =>
      have hw : w ≠ h := fun e => notIn n (by rw [waits, e]; exact List.mem_cons_self)
      simp only [releaseAt, chan_setHead, waits, startExposure_setChan, startExposure_setHead_ne hw]
      rfl

theorem endExposure_setHead (notIn : ∀ n, h ∉ (s.chan n).waiters) (y : Head) :
    endExposure h (s.setHead h y) = (releaseStrobe h s).setHead h y.ended := by
  show (releaseStrobe h (s.setHead h y)).setHead h ((releaseStrobe h (s.setHead h y)).head h).ended = _
  rw [releaseStrobe_setHead notIn, head_setHead_self, setHead_setHead]

/-- A group record at an exposure's end, its length added to SPAN (R57). -/
def GroupRecord.lengthened (g : GroupRecord) (t : HeadTimers) : GroupRecord :=
  { g with span := BitVec.ofNat 32 (min (g.span.toNat + t.exposure.getD 0) 4294967295) }

theorem Head.ended_some {hd : Head} {g : GroupRecord} (e : hd.ctx.group = some g) : hd.ended = { hd with
    ctx := { hd.ctx with group := some (g.lengthened hd.timers) }, timers := HeadTimers.stopped } := by
  simp only [Head.ended, e, Option.map_some, addSpan_eq_min]
  rfl

theorem releaseStrobe_arb (h : HeadIx) (s : State) : (releaseStrobe h s).arb = s.arb := by
  obtain ⟨_, _, e⟩ := releaseStrobe_frame s h
  rw [e]

/-- The class of a request, by its slot's group (R113). -/
def Slot.urgent : Slot → Bool
  | .queued c => decide (c.priority = .urgent)
  | .active c => decide (c.priority = .urgent)
  | .empty => false

theorem slotPriority_urgent (s : State) (k : HeadIx) : decide (s.slotPriority k = .urgent) = (s.head k).slot.urgent := by
  cases e : (s.head k).slot <;> simp only [State.slotPriority, e] <;> rfl

/-- The completion of the group that an exposure's end completes (R56, R57, R61, R113). -/
theorem completeGroup_endExposure {y : Head} {g : GroupRecord} (notIn : ∀ n, h ∉ (s.chan n).waiters)
    (group : y.ctx.group = some g) (slot : y.slot = (s.head h).slot) :
    completeGroup h (endExposure h (s.setHead h y)) = decideBurst h { (releaseStrobe h s).setHead h { y with
        slot := .queued (y.handed (g.lengthened y.timers))
        ctx := { y.ctx with
          group := none
          exposuresDone := 0
          groupsDone := if y.ctx.groupsDone = 255 then 255 else y.ctx.groupsDone + 1 }
        timers := HeadTimers.stopped } with
      arb := { s.arb with queue := joinQueue s.arb.queue h y.ctx.prog.priority fun k => (s.head k).slot.urgent } } := by
  have own : ((releaseStrobe h s).setHead h y.ended).head h = y.ended := head_setHead_self ..
  have slots (k : HeadIx) : decide (((releaseStrobe h s).setHead h y.ended).slotPriority k = .urgent)
      = (s.head k).slot.urgent := by
    rw [slotPriority_urgent]
    by_cases e : k = h
    · subst e
      rw [own]
      exact congrArg Slot.urgent slot
    · rw [head_setHead_ne _ e, releaseStrobe_slot]
  rw [endExposure_setHead notIn, completeGroup_some (g := g.lengthened y.timers) (by rw [own, Head.ended_some group])]
  have done : y.ended.completed (g.lengthened y.timers) = { y with
      slot := .queued (y.handed (g.lengthened y.timers))
      ctx := { y.ctx with
        group := none
        exposuresDone := 0
        groupsDone := if y.ctx.groupsDone = 255 then 255 else y.ctx.groupsDone + 1 }
      timers := HeadTimers.stopped } := by
    rw [← satInc_byte]
    rfl
  rw [← done]
  simp only [State.joined, own, slots, setHead_setHead, setHead_arb, releaseStrobe_arb]
  rfl

/-! ## The end condition (R54 to R60) -/

theorem integrationDue_iff (hd : Head) :
    hd.integrationDue = true ↔ hd.state = .exposing ∧ hd.timers.integration = some 0 := by
  rw [Head.integrationDue, Bool.and_eq_true, decide_eq_true_eq, decide_eq_true_eq]

theorem widthLimitDue_iff (hd : Head) :
    hd.widthLimitDue = true ↔ hd.state = .exposing ∧ hd.timers.widthLimit = some 0 := by
  rw [Head.widthLimitDue, Bool.and_eq_true, decide_eq_true_eq, decide_eq_true_eq]

theorem enterPacing_setHead_running {y : Head} {k : Nat} (e : y.ctx.spacing = .running k) :
    enterPacing h (s.setHead h y) = s.setHead h y.paces := by
  have own : (s.setHead h y).head h = y := head_setHead_self ..
  rw [enterPacing_running (by rw [own]; exact e), own, setHead_setHead]

theorem enterPacing_setHead_expired {y : Head} {k : Word} {time : Stamp} (e : y.ctx.spacing = .expired k time) :
    enterPacing h (s.setHead h y) = pacedAttempt h k time (s.setHead h y.paces) := by
  have own : (s.setHead h y).head h = y := head_setHead_self ..
  rw [enterPacing_expired (by rw [own]; exact e), own, setHead_setHead]

theorem lastExposure_iff (c : Context) :
    c.lastExposure = true ↔ c.exposuresDone.toNat + 1 = c.prog.accumulate.toNat := decide_eq_true_iff

theorem endCondition_next (overrun : Bool) (notLast : ¬ (s.head h).ctx.lastExposure = true) :
    endCondition h overrun s = match (s.head h).ctx.prog.repetition with
      | .trigger => (endExposure h (s.setHead h ((s.head h).closing overrun))).modHead h Head.nextExposure
      | .timer =>
        enterPacing h ((endExposure h (s.setHead h ((s.head h).closing overrun))).modHead h Head.nextExposure) := by
  obtain ⟨last, -⟩ | ⟨last, -⟩ | ⟨-, e⟩ := endCondition_cases h overrun s
  · exact absurd last notLast
  · exact absurd last notLast
  · exact e

theorem endCondition_extends (overrun : Bool) (last : (s.head h).ctx.lastExposure = true)
    (full : (s.head h).slot ≠ .empty) :
    endCondition h overrun s = s.setHead h ((s.head h).closing overrun).extended := by
  obtain ⟨-, empty, -⟩ | ⟨-, -, e⟩ | ⟨notLast, -⟩ := endCondition_cases h overrun s
  · exact absurd empty full
  · exact e
  · rw [last] at notLast; cases notLast

theorem endCondition_completes (overrun : Bool) (last : (s.head h).ctx.lastExposure = true)
    (empty : (s.head h).slot = .empty) : endCondition h overrun s
      = completeGroup h (endExposure h (s.setHead h ((s.head h).closing overrun))) := by
  obtain ⟨-, -, e⟩ | ⟨-, full, -⟩ | ⟨notLast, -⟩ := endCondition_cases h overrun s
  · exact e
  · exact absurd empty full
  · rw [last] at notLast; cases notLast

theorem Head.closing_group {hd : Head} {g : GroupRecord} (e : hd.ctx.group = some g) (overrun : Bool) :
    (hd.closing overrun).ctx.group = some { g with overrun := g.overrun || overrun } := by
  simp only [Head.closing, e, Option.map_some]

theorem Head.extended_closing {hd : Head} {g : GroupRecord} (e : hd.ctx.group = some g) (overrun : Bool) :
    (hd.closing overrun).extended = { hd with
      state := .extending
      ctx := { hd.ctx with
        startLine := none, group := some { g with overrun := g.overrun || overrun, stretched := true } }
      timers := { hd.timers with integration := none, widthLimit := none } } := by
  rw [Head.extended, Head.closing_group e overrun]
  rfl

/-- The state after an exposure that is not the last of its group (R56, R57). -/
theorem nextExposure_state {g : GroupRecord} (notIn : ∀ n, h ∉ (s.chan n).waiters) (e : (s.head h).ctx.group = some g)
    (overrun : Bool) : (endExposure h (s.setHead h ((s.head h).closing overrun))).modHead h Head.nextExposure
      = (releaseStrobe h s).setHead h { s.head h with
        state := .armed
        ctx := { (s.head h).ctx with
          startLine := none
          group := some ({ g with overrun := g.overrun || overrun }.lengthened (s.head h).timers)
          exposuresDone := (s.head h).ctx.exposuresDone + 1 }
        timers := HeadTimers.stopped } := by
  rw [endExposure_setHead notIn, modHead_eq_setHead, head_setHead_self, setHead_setHead,
    Head.ended_some (Head.closing_group e overrun)]
  rfl

end Sys2Proof.Machine

namespace Sys2Proof.Proofs

open Sys2Proof.Machine

/-- Settles O38: STOPPED, the three ends COMPLETE, and the three ways to go on. -/
theorem burstCourseAfterAGroup : Obligations.BurstCourseAfterAGroup := by
  intro h s hd reached goesOn drained
  have drains (b : Body) : enterDraining h (offer h b s) = drained (offer h b s) := by
    obtain ⟨seq, lost, restart, e⟩ := offer_head h h b s
    rw [enterDraining_eq]
    simp only [drained, e]
    rfl
  refine ⟨fun stop => (decideBurst_stopped stop).trans (drains _), fun ⟨stop, burst, done⟩ link =>
    (decideBurst_unlinked stop burst done link).trans (drains _), fun n code ⟨stop, burst, done⟩ link refused => ?_,
    fun n ⟨stop, burst, done⟩ link accepted => ?_, fun ⟨stop, more⟩ strict => ?_, fun ⟨stop, more⟩ mode repetition => ?_,
    fun ⟨stop, more⟩ mode repetition => ?_⟩
  · rw [decideBurst_chains stop burst done link, chainTo_refused refused]
    exact drains _
  · rw [decideBurst_chains stop burst done link]
    exact chainTo_accepted accepted
  · rw [decideBurst_continues stop more, strict]
  · rw [decideBurst_continues stop more, mode, repetition]
  · rw [decideBurst_continues stop more, mode, repetition]
    exact ⟨fun n spacing => enterPacing_running spacing, fun n time spacing => enterPacing_expired spacing⟩

/-- Settles O37: the classes, the expiries, then the four courses of an end condition. -/
theorem exposureEndCondition : Obligations.ExposureEndCondition := by
  refine ⟨fun s k => ?_, fun h s => ⟨fun state timer => ?_, fun state timer => ?_, fun notDue => ?_, fun notDue => ?_⟩,
    fun h s overrun g => ?_⟩
  · simp only [State.slotPriority]
    cases (s.head k).slot <;> rfl
  · exact congrArg Host.Outcome.next (if_pos ((integrationDue_iff _).2 ⟨state, timer⟩))
  · exact congrArg Host.Outcome.next (if_pos ((widthLimitDue_iff _).2 ⟨state, timer⟩))
  · refine congrArg Host.Outcome.next (if_neg fun due => ?_)
    obtain ⟨state, timer⟩ := (integrationDue_iff _).1 due
    exact notDue.elim (absurd state) (absurd timer)
  · refine congrArg Host.Outcome.next (if_neg fun due => ?_)
    obtain ⟨state, timer⟩ := (widthLimitDue_iff _).1 due
    exact notDue.elim (absurd state) (absurd timer)
  · intro hd flagged ended last freed urgent exposing group notIn
    have isLast : hd.ctx.lastExposure = true ↔ last := lastExposure_iff _
    have next := nextExposure_state notIn group overrun
    refine ⟨fun notLast repetition => ?_, fun notLast repetition => ?_, fun isLast' full => ?_, fun isLast' empty => ?_⟩
    · rw [endCondition_next overrun (mt isLast.1 notLast), repetition]
      exact next
    · rw [endCondition_next overrun (mt isLast.1 notLast), repetition, next]
      exact ⟨fun n spacing => enterPacing_setHead_running spacing, fun n time spacing => enterPacing_setHead_expired spacing⟩
    · rw [endCondition_extends overrun (isLast.2 isLast') full]
      exact congrArg (s.setHead h) (Head.extended_closing group overrun)
    · have byClass : (fun k => (s.head k).slot.urgent) = urgent := by
        funext k
        simp only [urgent]
        cases (s.head k).slot <;> rfl
      rw [endCondition_completes overrun (isLast.2 isLast') empty,
        completeGroup_endExposure notIn (Head.closing_group group overrun) rfl, byClass]
      rfl

end Sys2Proof.Proofs
end

section
/-! PROOFS. The grant, the transmitter, completions, the end of an extension, the readout timeout, the receiver, and the
end of a tick (Chapter 7, Sections 4.3, 4.6, 9.4 and 10.1). -/

namespace Sys2Proof.Machine

variable {s : State} {h : HeadIx}

/-! ## The grant (R116, R118) -/

theorem tryGrant_due {rest : List HeadIx} {g : Completed} (due : s.grantDue = true) (front : s.arb.queue = h :: rest)
    (slot : (s.head h).slot = .queued g) : tryGrant s = grantTo h g rest s := by
  simp only [tryGrant, if_pos due, front, slot]

theorem tryGrant_notDue (notDue : ¬ s.grantDue = true) : tryGrant s = s := if_neg notDue

/-- What a grant leaves, block by block (R116). -/
theorem grantTo_blocks (h : HeadIx) (g : Completed) (rest : List HeadIx) (s : State) :
    (grantTo h g rest s).head h = { s.head h with slot := .active g }
    ∧ (∀ k : HeadIx, k ≠ h → (grantTo h g rest s).head k = s.head k)
    ∧ (grantTo h g rest s).arb = { s.arb with
        queue := rest, tagCounter := s.arb.tagCounter + 1
        port := .busy h (s.arb.tagCounter + 1) g.readoutLimit.toNat }
    ∧ (grantTo h g rest s).link = s.link.pass (.start h (s.arb.tagCounter + 1) (g.record.gain.extractLsb' 0 10))
    ∧ { grantTo h g rest s with heads := s.heads, arb := s.arb, link := s.link } = s :=
  ⟨head_setHead_self s h _, fun _ hk => head_setHead_ne s hk _, rfl, rfl, rfl⟩

/-- A LINK_CFG write that makes no grant. -/
theorem writeLinkCfg_quiet {on : Bool}
    (quiet : on = false ∨ s.arb.linkEnable = true ∨ s.arb.port ≠ .idle ∨ s.arb.queue = []) :
    writeLinkCfg on s = { s with arb := { s.arb with linkEnable := on } } := by
  simp only [writeLinkCfg]
  split
  · rename_i sets
    rw [Bool.and_eq_true, Bool.not_eq_true'] at sets
    refine tryGrant_notDue fun due => ?_
    obtain ⟨idle, -, waits⟩ := (grantDue_iff _).1 due
    obtain e | e | e | e := quiet
    · rw [e] at sets; cases sets.1
    · rw [e] at sets; cases sets.2
    · exact e idle
    · exact waits e
  · rfl

theorem writeLinkCfg_grants (idle : s.arb.port = .idle) (off : s.arb.linkEnable = false) {rest : List HeadIx}
    {g : Completed} (front : s.arb.queue = h :: rest) (slot : (s.head h).slot = .queued g) :
    writeLinkCfg true s = grantTo h g rest { s with arb := { s.arb with linkEnable := true } } := by
  have due : State.grantDue { s with arb := { s.arb with linkEnable := true } } = true :=
    (grantDue_iff _).2 ⟨idle, rfl, by rw [show s.arb.queue = _ from front]; exact List.cons_ne_nil _ _⟩
  simp only [writeLinkCfg, off]
  exact tryGrant_due due front slot

/-! ## The transmitter (R119) -/

/-- The bytes of a START: the gain's ten bits stand in two bytes, the upper bits of no item zero (R182). -/
theorem Message.bytes_start (h : HeadIx) (tag : Byte) (gain : BitVec 10) : ∃ head hi lo : Byte,
    (Message.start h tag gain).bytes = [0xA1, head, tag, hi, lo, crc8 [0xA1, head, tag, hi, lo]]
    ∧ head.toNat = h.val ∧ hi.toNat < 4 ∧ hi.toNat * 256 + lo.toNat = gain.toNat := by
  refine ⟨BitVec.ofNat 8 h.val, (gain.extractLsb' 8 2).zeroExtend 8, gain.extractLsb' 0 8, rfl, ?_, ?_, ?_⟩
  · rw [BitVec.toNat_ofNat, Nat.mod_eq_of_lt (by omega)]
  all_goals
    simp only [BitVec.truncate_eq_setWidth, BitVec.toNat_setWidth, BitVec.extractLsb'_toNat, Nat.shiftRight_eq_div_pow]
    omega

/-- Whether a message is the START of a tag. -/
def Message.starts (tag : Byte) : Message → Bool
  | .start _ t _ => decide (t = tag)
  | .cancel _ => false

theorem Message.starts_iff (tag : Byte) (m : Message) :
    m.starts tag = true ↔ ∃ (h : HeadIx) (gain : BitVec 10), m = .start h tag gain := by
  cases m with
  | cancel t => exact ⟨fun e => (by cases e), fun ⟨_, _, e⟩ => by cases e⟩
  | start h t gain =>
    refine decide_eq_true_iff.trans ⟨fun e => ⟨h, gain, by rw [e]⟩, fun ⟨_, _, e⟩ => ?_⟩
    cases e
    rfl

namespace LinkEnds

variable (l : LinkEnds)

theorem pass_cancel (tag : Byte) : l.pass (.cancel tag) = if l.waiting.any (Message.starts tag) then
      { l with waiting := l.waiting.filter fun x => !x.starts tag }
    else if l.sending.isNone then { l with sending := some (.cancel tag) }
    else { l with waiting := l.waiting ++ [.cancel tag] } := rfl

theorem pass_start (h : HeadIx) (tag : Byte) (gain : BitVec 10) : l.pass (.start h tag gain) =
    if l.sending.isNone then { l with sending := some (.start h tag gain) }
    else { l with waiting := l.waiting ++ [.start h tag gain] } := rfl

theorem any_starts (tag : Byte) : l.waiting.any (Message.starts tag) = true ↔
    ∃ (h : HeadIx) (gain : BitVec 10), .start h tag gain ∈ l.waiting := by
  simp only [List.any_eq_true, Message.starts_iff]
  exact ⟨fun ⟨_, hm, h, gain, e⟩ => ⟨h, gain, e ▸ hm⟩, fun ⟨h, gain, hm⟩ => ⟨_, hm, h, gain, rfl⟩⟩

/-- A message that discards no START is sent at once or waits last. -/
theorem pass_kept {m : Message} (kept : ∀ tag, m = .cancel tag → l.waiting.any (Message.starts tag) = false) :
    l.pass m = if l.sending.isNone then { l with sending := some m } else { l with waiting := l.waiting ++ [m] } := by
  cases m with
  | start h tag gain => exact pass_start l h tag gain
  | cancel tag => rw [pass_cancel, kept tag rfl, if_neg Bool.false_ne_true]

theorem frameSent_nil (sends : l.sending ≠ none) (none : l.waiting = []) : l.frameSent = { l with sending := .none } := by
  obtain ⟨x, e⟩ := Option.ne_none_iff_exists'.1 sends
  simp only [frameSent, e, none]

theorem frameSent_cons {m : Message} {ms : List Message} (sends : l.sending ≠ none) (more : l.waiting = m :: ms) :
    l.frameSent = { l with sending := some m, waiting := ms } := by
  obtain ⟨x, e⟩ := Option.ne_none_iff_exists'.1 sends
  simp only [frameSent, e, more]

theorem frameSent_silent (silent : l.sending = none) : l.frameSent = l := by
  simp only [frameSent, silent]

end LinkEnds

/-! ## Completions (R121 to R124) -/

/-- The state after a GOOD or ERROR completion's record, with the slot EMPTY and the port IDLE (R122). -/
def State.captured (s : State) (h : HeadIx) (g : Completed) (status : Status) (level : Word) : State :=
  freePort h (offer h (captureBody g status level) s)

theorem captured_head (h : HeadIx) (g : Completed) (status : Status) (level : Word) (s : State) : ∃ seq lost restart,
    (s.captured h g status level).head h
      = { s.head h with slot := .empty, seq := seq, lost := lost, restart := restart } := by
  obtain ⟨seq, lost, restart, e⟩ := offer_head h h (captureBody g status level) s
  refine ⟨seq, lost, restart, (head_setHead_self _ h _).trans ?_⟩
  rw [e]

theorem captured_eq (h : HeadIx) (g : Completed) (status : Status) (level : Word) (s : State) :
    s.captured h g status level
      = { (offer h (captureBody g status level) s).setHead h
            { (offer h (captureBody g status level) s).head h with slot := .empty } with
          arb := { s.arb with port := .idle } } := by
  obtain ⟨hd, q, i, e⟩ := offer_frame s h (captureBody g status level)
  have arb : (offer h (captureBody g status level) s).arb = s.arb := by rw [e]; rfl
  show { (offer h (captureBody g status level) s).setHead h _ with
    arb := { (offer h (captureBody g status level) s).arb with port := .idle } } = _
  rw [arb]

theorem captured_choices (h : HeadIx) (g : Completed) (status : Status) (level : Word) (s : State) :
    (s.captured h g status level).choices = s.choices := by
  obtain ⟨hd, q, i, e⟩ := offer_frame s h (captureBody g status level)
  rw [captured_eq, e]
  rfl

theorem strayCompletion_eq (s : State) : strayCompletion s = { s with
    arb := { s.arb with stray := if s.arb.stray = 255 then 255 else s.arb.stray + 1 }
    irq := { s.irq with flags := s.irq.flags ||| 0x0008 } } := by
  rw [← satInc_byte]
  rfl

section Completion

variable {tag active : Byte} {status : Status} {level : Word} {n : Nat} {g : Completed}

theorem execComplete_takes (ready : s.link.rxWaitsIdle = false) :
    exec (.complete tag status level) s = .next (takeComplete tag status level s) := by
  show Host.Outcome.next _ = _
  rw [ready, if_neg Bool.false_ne_true]

theorem takeComplete_idle (idle : s.arb.port = .idle) : takeComplete tag status level s = strayCompletion s := by
  simp only [takeComplete, idle]

theorem takeComplete_stray (busy : s.arb.port = .busy h active n) (other : tag ≠ active) :
    takeComplete tag status level s = strayCompletion s := by
  simp only [takeComplete, busy, if_neg other]

theorem takeComplete_rejects (busy : s.arb.port = .busy h tag n) :
    takeComplete tag .reject level s = headFault h .rejected (freePort h s) := by
  simp only [takeComplete, busy, if_true]

theorem takeComplete_captures (busy : s.arb.port = .busy h tag n) (slot : (s.head h).slot = .active g)
    (accepted : status ≠ .reject) :
    takeComplete tag status level s = notifyEmptied h (s.captured h g status level) := by
  cases status with
  | reject => exact absurd rfl accepted
  | good | error => simp only [takeComplete, busy, if_true, captureReadout, slot]; rfl

end Completion

theorem notifyEmptied_state (state : (s.head h).state ≠ .extending) : notifyEmptied h s = slotEmptied h s := by
  rw [notifyEmptied, if_neg state]

theorem notifyEmptied_extending (state : (s.head h).state = .extending) :
    notifyEmptied h s = slotEmptied h (grantOrNot s) := by
  rw [notifyEmptied, if_pos state]

theorem slotEmptied_draining (state : (s.head h).state = .draining) :
    slotEmptied h s = (s.setHead h { s.head h with state := .idle }).raise (doneBit h) := by
  simp only [slotEmptied, state]
  rfl

theorem slotEmptied_blocked (state : (s.head h).state = .blocked) : slotEmptied h s = leaveBlocked h s := by
  simp only [slotEmptied, state]

theorem slotEmptied_extending (state : (s.head h).state = .extending) :
    slotEmptied h s = completeGroup h (endExposure h s) := by
  simp only [slotEmptied, state]

theorem slotEmptied_other
    (state : (s.head h).state ∈ [ExpState.off, .idle, .armed, .pacing, .delay, .strobeWait, .exposing, .fault]) :
    slotEmptied h s = s := by
  simp only [List.mem_cons, List.not_mem_nil, or_false] at state
  obtain e | e | e | e | e | e | e | e := state <;> simp only [slotEmptied, e]

theorem leaveBlocked_latched {l : Latch} (latch : (s.head h).ctx.latch = some l) :
    leaveBlocked h s = acceptStart h ⟨.latched l.source, l.arrival, l.age⟩ l.source s := by
  simp only [leaveBlocked, latch]

theorem leaveBlocked_triggered (latch : (s.head h).ctx.latch = none) (triggered : (s.head h).ctx.nextTriggered = true) :
    leaveBlocked h s = s.setHead h { s.head h with state := .armed } := by
  simp only [leaveBlocked, latch, if_pos triggered]
  rfl

theorem leaveBlocked_paced (latch : (s.head h).ctx.latch = none) (paced : ¬ (s.head h).ctx.nextTriggered = true) :
    leaveBlocked h s = enterPacing h s := by
  simp only [leaveBlocked, latch, if_neg paced]

/-! ## Faults (R125, R159) -/

theorem headFault_eq (h : HeadIx) (code : FaultCode) (s : State) :
    let o := offer h (.fault code (s.head h).discarded s.now) (teardown h s)
    headFault h code s = { o.setHead h { o.head h with
        state := .fault, ring := ((teardown h s).head h).ring.commitPending } with irq := o.irq.raise (faultBit h) } := by
  intro o
  obtain ⟨seq, lost, restart, e⟩ := offer_head h h (.fault code (s.head h).discarded s.now) (teardown h s)
  have ring : (o.head h).ring = ((teardown h s).head h).ring := by rw [e]
  rw [← ring]
  rfl

theorem expireReadout_due {tag : Byte} (busy : s.arb.port = .busy h tag 0) :
    expireReadout s = headFault h .readoutTimeout (freePort h (passMessage (.cancel tag) s)) := by
  simp only [expireReadout, busy]

theorem expireReadout_notDue (notDue : ∀ (h : HeadIx) (tag : Byte), s.arb.port ≠ .busy h tag 0) :
    expireReadout s = s := by
  simp only [expireReadout]
  split
  · rename_i e
    exact absurd e (notDue _ _)
  · rfl
  · rfl

/-! ## The receiver (R120, R181) -/

theorem statusOfCode_none (code : Byte) : statusOfCode code = none ↔ code ∉ [0x01#8, 0x02#8, 0x03#8] := by
  simp only [statusOfCode, List.mem_cons, List.not_mem_nil, or_false, not_or]
  split_ifs with one two three
  · exact ⟨fun e => (by cases e), fun ne => absurd one ne.1⟩
  · exact ⟨fun e => (by cases e), fun ne => absurd two ne.2.1⟩
  · exact ⟨fun e => (by cases e), fun ne => absurd three ne.2.2⟩
  · exact ⟨fun _ => ⟨one, two, three⟩, fun _ => rfl⟩

/-- What the examination refuses: a check byte, a first byte or a status that does not fit (R120). -/
theorem examineFrame_none (f : RxFrame) : examineFrame f = none ↔
    crc8 [f.b0, f.b1, f.b2, f.b3, f.b4] ≠ f.b5 ∨ f.b0 ≠ 0xA3 ∨ f.b2 ∉ [0x01#8, 0x02#8, 0x03#8] := by
  simp only [examineFrame]
  split
  · rename_i passes
    rw [Option.map_eq_none_iff, statusOfCode_none, or_iff_right (not_not_intro passes.1),
      or_iff_right (not_not_intro passes.2)]
  · rename_i fails
    rw [not_and_or] at fails
    exact ⟨fun _ => fails.imp_right .inl, fun _ => rfl⟩

theorem countLinkError_eq (s : State) : countLinkError s = { s with
    arb := { s.arb with linkErrors := if s.arb.linkErrors = 255 then 255 else s.arb.linkErrors + 1 }
    irq := { s.irq with flags := s.irq.flags ||| 0x0010 } } := by
  rw [← satInc_byte]
  rfl

/-! ## A tick (R165) -/

theorem Retry.tick_eq (r : Retry) : r.tick = if r = .none then .none else .due := by
  cases r <;> rfl

end Sys2Proof.Machine

namespace Sys2Proof.Proofs

open Sys2Proof.Machine

/-- Settles O43: the grant when it is due, and LINK_CFG with and without one. -/
theorem grantAndLinkEnable : Obligations.GrantAndLinkEnable := by
  refine fun s => ⟨grantDue_iff s, rfl, fun h rest g idle front slot => ⟨fun on => ?_, fun off => ?_⟩, fun quiet => ?_,
    fun quiet => ?_, ?_⟩
  · have due := (grantDue_iff s).2 ⟨idle, on, by rw [front]; exact List.cons_ne_nil _ _⟩
    obtain ⟨own, others, arb, link, rest'⟩ := grantTo_blocks h g rest s
    refine ⟨_, congrArg Host.Outcome.next (tryGrant_due due front slot), rfl, own, others, ?_, link, rest'⟩
    rw [arb, ← on]
  · refine ⟨_, congrArg (fun u => Host.Outcome.next (afterWrite linkCfgAddr u))
      (writeLinkCfg_grants idle off front slot), ?_⟩
    obtain ⟨own, others, arb, link, -⟩ := grantTo_blocks h g rest { s with arb := { s.arb with linkEnable := true } }
    exact ⟨own, others, arb, link, rfl⟩
  · refine congrArg Host.Outcome.next (tryGrant_notDue fun due => ?_)
    obtain ⟨idle, on, waits⟩ := (grantDue_iff s).1 due
    obtain e | e | e := quiet
    · exact e idle
    · rw [e] at on; cases on
    · exact waits e
  · have e := writeLinkCfg_quiet (s := s) (on := true) (.inr (by tauto))
    exact ⟨_, congrArg (fun u => Host.Outcome.next (afterWrite linkCfgAddr u)) e, rfl, rfl⟩
  · have e := writeLinkCfg_quiet (s := s) (on := false) (.inl rfl)
    exact ⟨_, congrArg (fun u => Host.Outcome.next (afterWrite linkCfgAddr u)) e, rfl, rfl⟩

/-- Settles O48: frames that fail, short frames, and the counters' clearing. -/
theorem receiverCountsLinkErrors : Obligations.ReceiverCountsLinkErrors := by
  refine ⟨fun f s => ?_, fun s => ⟨_, rfl, show (0#8 ++ 0#8 : Word) = 0 by decide, rfl, rfl⟩⟩
  intro counted fails
  have count : countLinkError s = counted := countLinkError_eq s
  refine ⟨fun ready bad => congrArg Host.Outcome.next ?_, fun waits => congrArg Host.Outcome.next (if_pos waits),
    fun ready => congrArg Host.Outcome.next ?_, fun waits => congrArg Host.Outcome.next (if_pos waits), rfl⟩
  · simp only [receiveFrame, ready, if_neg Bool.false_ne_true, (examineFrame_none f).2 bad, count]
  · rw [ready, if_neg Bool.false_ne_true, count]

/-- Settles O47: the timeout with a timer due and without, then the fault. -/
theorem readoutTimeoutFaultsTheHead : Obligations.ReadoutTimeoutFaultsTheHead := by
  refine fun s => ⟨fun h tag busy => congrArg Host.Outcome.next (expireReadout_due busy),
    fun notDue => congrArg Host.Outcome.next (expireReadout_notDue notDue), fun h code => ?_⟩
  intro d discarded o
  have e := headFault_eq h code s
  rw [Head.discarded_eq] at e
  exact e

/-- Settles O45: stray, REJECT, and a capture by the head's state. -/
theorem completeEndsTheReadout : Obligations.CompleteEndsTheReadout := by
  intro tag status level s stray
  refine ⟨fun waits => congrArg Host.Outcome.next (if_pos waits), fun ready => ?_⟩
  rw [execComplete_takes ready]
  refine ⟨fun idle => ?_, fun h active n busy => ⟨fun other => ?_, fun g same slot => ?_⟩⟩
  · rw [takeComplete_idle idle, strayCompletion_eq]
  · rw [takeComplete_stray busy other, strayCompletion_eq]
  subst same
  intro r emptied u
  refine ⟨fun rejected => ?_, fun accepted => ?_⟩
  · rw [rejected, takeComplete_rejects busy]
    rfl
  have captured : s.captured h g status level = u := captured_eq h g status level s
  obtain ⟨seq, lost, restart, own⟩ := captured_head h g status level s
  rw [captured] at own
  have state : (u.head h).state = (s.head h).state := by rw [own]
  have ctx : (u.head h).ctx = (s.head h).ctx := by rw [own]
  have entered := (takeComplete_captures (level := level) busy slot accepted).trans (congrArg (notifyEmptied h) captured)
  have notified (other : (s.head h).state ≠ .extending) : takeComplete tag status level s = slotEmptied h u :=
    entered.trans (notifyEmptied_state (by rw [state]; exact other))
  refine ⟨fun draining => ?_, fun l blocked latch => ?_, fun blocked latch => ?_, fun other => ?_⟩
  · rw [notified (by rw [draining]; decide), slotEmptied_draining (by rw [state]; exact draining)]
    rfl
  · rw [notified (by rw [blocked]; decide), slotEmptied_blocked (by rw [state]; exact blocked),
      leaveBlocked_latched (by rw [ctx]; exact latch)]
  · have leaves : takeComplete tag status level s = leaveBlocked h u :=
      (notified (by rw [blocked]; decide)).trans (slotEmptied_blocked (by rw [state]; exact blocked))
    have latch : (u.head h).ctx.latch = none := by rw [ctx]; exact latch
    have paced (timer : (s.head h).ctx.prog.repetition = .timer) (runs : (s.head h).ctx.spacing ≠ .stopped) :
        takeComplete tag status level s = enterPacing h u := by
      refine leaves.trans (leaveBlocked_paced latch ?_)
      rw [ctx, Context.nextTriggered_iff, timer, not_or]
      exact ⟨fun e => (by cases e), runs⟩
    refine ⟨fun triggered => ?_, fun k timer spacing => ?_, fun k time timer spacing => ?_⟩
    · rw [leaves, leaveBlocked_triggered latch (by rw [ctx]; exact (Context.nextTriggered_iff _).2 triggered)]
    · rw [paced timer (by rw [spacing]; exact fun e => by cases e), enterPacing_running (by rw [ctx]; exact spacing)]
      rfl
    · rw [paced timer (by rw [spacing]; exact fun e => by cases e), enterPacing_expired (by rw [ctx]; exact spacing)]
      rfl
  · have notExtending : (s.head h).state ≠ .extending := fun e => by rw [e] at other; exact absurd other (by decide)
    rw [notified notExtending, slotEmptied_other (by rw [state]; exact other)]

/-- Settles O46: the held group's completion, then the three answers of a grant that may fall between. -/
theorem completionEndsTheExtension : Obligations.CompletionEndsTheExtension := by
  refine ⟨fun h r s => ?_, fun tag status level h n g s ready busy slot accepted extending => ?_⟩
  · intro hd urgent extending group notIn
    have byClass : (fun k => (s.head k).slot.urgent) = urgent := by
      funext k
      simp only [urgent]
      cases (s.head k).slot <;> rfl
    have e := completeGroup_endExposure (y := s.head h) notIn group rfl
    rw [setHead_head, byClass] at e
    exact e
  · intro r o u waits
    have captured : s.captured h g status level = u := captured_eq h g status level s
    obtain ⟨seq, lost, restart, own⟩ := captured_head h g status level s
    rw [captured] at own
    have state : (u.head h).state = .extending := by rw [own]; exact extending
    have ended : exec (.complete tag status level) s = .next (slotEmptied h (grantOrNot u)) := by
      rw [execComplete_takes ready, takeComplete_captures busy slot accepted, captured, notifyEmptied_extending state]
    have due : u.grantDue = true ↔ waits := (grantDue_iff u).trans (and_iff_right rfl)
    have choices : u.choices = s.choices := by rw [← captured]; exact captured_choices h g status level s
    obtain ⟨notDue, e⟩ | ⟨isDue, e | e⟩ := grantOrNot_cases u <;> rw [ended, e]
    · exact ⟨fun _ => congrArg Host.Outcome.next (slotEmptied_extending state),
        fun isWaiting => by rw [due.2 isWaiting] at notDue; cases notDue⟩
    · refine ⟨fun no => absurd (due.1 isDue) no, fun _ => .inl (congrArg Host.Outcome.next ?_)⟩
      rw [← choices]
      exact slotEmptied_extending state
    · refine ⟨fun no => absurd (due.1 isDue) no, fun _ => .inr ⟨_, rfl, congrArg Host.Outcome.next ?_⟩⟩
      rw [← choices]
      refine slotEmptied_extending ?_
      obtain e | ⟨_, -, e⟩ := tryGrant_head h { u with choices := u.choices + 1 } <;> rw [e] <;> exact state

/-- Settles O44: the bytes of each frame, a message passed, and the frame after a frame. -/
theorem transmitterKeepsTheOrder : Obligations.TransmitterKeepsTheOrder := by
  refine ⟨fun s h tag gain => ⟨fun none => ?_, fun start => ?_, fun cancel => ?_⟩, fun l m => ?_, fun s =>
    ⟨fun sends none => ?_, fun m ms sends more => ?_, fun silent => ?_⟩⟩
  · simp only [State.ltxFrame, none]
  · simp only [State.ltxFrame, start]
    exact Message.bytes_start h tag gain
  · simp only [State.ltxFrame, cancel]
    rfl
  · intro discards
    have kept (no : ¬ discards) : l.pass m
        = if l.sending.isNone then { l with sending := some m } else { l with waiting := l.waiting ++ [m] } := by
      refine l.pass_kept fun tag e => ?_
      rw [← Bool.not_eq_true, l.any_starts]
      exact fun ⟨h, gain, hm⟩ => no ⟨tag, h, gain, e, hm⟩
    refine ⟨fun no silent => ?_, fun no sends => ?_, ?_⟩
    · rw [kept no, silent]
      rfl
    · rw [kept no, if_neg (by rwa [Option.isNone_iff_eq_none])]
    · rintro ⟨tag, h, gain, rfl, waits⟩
      rw [l.pass_cancel, if_pos ((l.any_starts tag).2 ⟨h, gain, waits⟩)]
      refine ⟨rfl, rfl, List.filter_sublist, fun x => ?_⟩
      rw [List.mem_filter, Bool.not_eq_true', ← Bool.not_eq_true, Message.starts_iff]
      refine and_congr_right fun _ => ⟨fun no tag' h gain e same => ?_, fun no ⟨h, gain, same⟩ => ?_⟩
      · cases e
        exact no ⟨h, gain, same⟩
      · exact no tag h gain rfl same
  · exact congrArg (fun l => Host.Outcome.next { s with link := l }) (s.link.frameSent_nil sends none)
  · exact congrArg (fun l => Host.Outcome.next { s with link := l }) (s.link.frameSent_cons sends more)
  · exact congrArg (fun l => Host.Outcome.next { s with link := l }) (s.link.frameSent_silent silent)

/-- Settles O49: each block's own tick. -/
theorem tickCountsEveryTimer : Obligations.TickCountsEveryTimer := by
  refine fun s => ⟨_, rfl, rfl, line_tickEnd s, rate_tickEnd s, fun h => ?_, ?_, rfl⟩
  · rw [head_tickEnd]
    simp only [Head.tick, Context.tick, HeadTimers.tick, Retry.tick_eq, satInc_word]
    cases (s.head h).ctx.spacing <;> simp only [SpacingTimer.tick, satInc_word]
  · show { s.arb with port := s.arb.port.tick } = _
    cases s.arb.port <;> rfl

end Sys2Proof.Proofs
end

section
/-! PROOFS. The descriptor buffer, the rings' words, the records' words and the frames of the link: what each layout of
Chapter 11 says of its codes (Sections 5.2, 11.2, 11.4 and 11.5). -/

namespace Sys2Proof.Machine

/-! ## Words and their parts -/

/-- A code at the foot of a word, the rest zero, is the word under the code's mask. -/
theorem zeroExtend_low (w : Word) {k : Nat} (hk : k ≤ 16) :
    (w.extractLsb' 0 k).zeroExtend 16 = w &&& BitVec.ofNat 16 (2 ^ k - 1) := by
  have le : 2 ^ k ≤ 2 ^ 16 := Nat.pow_le_pow_right (by decide) hk
  have pos := Nat.two_pow_pos k
  apply BitVec.eq_of_toNat_eq
  rw [BitVec.toNat_and, BitVec.toNat_ofNat, Nat.mod_eq_of_lt (a := 2 ^ k - 1) (by omega), Nat.and_two_pow_sub_one_eq_mod]
  simp only [BitVec.toNat_setWidth, BitVec.extractLsb'_toNat, Nat.shiftRight_zero]
  exact Nat.mod_eq_of_lt (lt_of_le_of_lt (Nat.mod_le _ _) w.isLt)

theorem zero_append {k n : Nat} (x : BitVec n) : 0#k ++ x = x.zeroExtend (k + n) := by
  apply BitVec.eq_of_toNat_eq
  rw [BitVec.toNat_append, BitVec.toNat_setWidth, BitVec.toNat_ofNat, Nat.zero_mod, Nat.zero_shiftLeft, Nat.zero_or,
    Nat.mod_eq_of_lt (lt_of_lt_of_le x.isLt (Nat.pow_le_pow_right (by decide) (Nat.le_add_left n k)))]

/-! ## The descriptor buffer (Table 11.2) -/

/-- A two-valued field is at its second value exactly when its bit is set. -/
theorem chosen_iff {α : Type} {c : Bool} {x y : α} (ne : y ≠ x) : c = true ↔ (if c then x else y) = x := by
  cases c
  · exact ⟨fun e => (by cases e), fun e => absurd e ne⟩
  · exact ⟨fun _ => rfl, fun _ => rfl⟩

theorem decide_chosen {α : Type} [DecidableEq α] {c : Bool} {x y : α} (ne : y ≠ x) :
    decide ((if c then x else y) = x) = c := by
  cases c
  · exact decide_eq_false ne
  · exact decide_eq_true rfl

/-- DB0 with the positions of no field zero. -/
theorem db0_masked (w : Word) : BitVec.ofBool (w.getLsbD 15) ++ 0#4 ++ w.extractLsb' 0 11 = w &&& 0x87FF := by
  refine BitVec.eq_of_getLsbD_eq fun i hi => ?_
  rw [BitVec.getLsbD_append, BitVec.getLsbD_append, BitVec.getLsbD_and, BitVec.getLsbD_extractLsb', BitVec.getLsbD_ofBool]
  interval_cases i <;> simp

/-- The six bits of DB3's two-valued fields. -/
theorem six_bits_of_word (w : Word) : BitVec.ofBool (w.getLsbD 5) ++ BitVec.ofBool (w.getLsbD 4)
    ++ BitVec.ofBool (w.getLsbD 3) ++ BitVec.ofBool (w.getLsbD 2) ++ BitVec.ofBool (w.getLsbD 1)
    ++ BitVec.ofBool (w.getLsbD 0) = w.extractLsb' 0 6 := by
  refine BitVec.eq_of_getLsbD_eq fun i hi => ?_
  simp only [BitVec.getLsbD_append, BitVec.getLsbD_ofBool, BitVec.getLsbD_extractLsb']
  interval_cases i <;> simp

/-- DB3 with the positions of no field zero. -/
theorem db3_masked (w : Word) :
    w.extractLsb' 11 5 ++ w.extractLsb' 8 3 ++ 0#2 ++ w.extractLsb' 0 6 = w &&& 0xFF3F := by
  refine BitVec.eq_of_getLsbD_eq fun i hi => ?_
  simp only [BitVec.getLsbD_append, BitVec.getLsbD_and, BitVec.getLsbD_extractLsb']
  interval_cases i <;> simp

/-- DB6 with the positions of no field zero. -/
theorem db6_masked (w : Word) : w.extractLsb' 8 8 ++ 0#3 ++ w.extractLsb' 0 5 = w &&& 0xFF1F := by
  refine BitVec.eq_of_getLsbD_eq fun i hi => ?_
  simp only [BitVec.getLsbD_append, BitVec.getLsbD_and, BitVec.getLsbD_extractLsb']
  interval_cases i <;> simp

/-- The high word of a 24-bit code with its upper byte zero. -/
theorem high_word_masked (hi lo : Word) : 0#8 ++ (hi.extractLsb' 0 8 ++ lo).extractLsb' 16 8 = hi &&& 0x00FF := by
  rw [BitVec.extractLsb'_append_eq_left]
  exact (zero_append _).trans (zeroExtend_low_byte hi)

theorem low_word_masked (hi lo : Word) : (hi.extractLsb' 0 8 ++ lo).extractLsb' 0 16 = lo &&& 0xFFFF :=
  BitVec.extractLsb'_append_eq_right.trans (BitVec.and_allOnes (x := lo)).symm

/-- The two-valued fields of a buffer's program are DB3's lower six bits. -/
theorem twoValued_programOfBuffer (b : Vector Word 16) : (programOfBuffer b).twoValued = b[3].extractLsb' 0 6 := by
  have priority : decide ((programOfBuffer b).priority = .urgent) = b[3].getLsbD 4 := decide_chosen nofun
  have policy : decide ((programOfBuffer b).policy = .dark) = b[3].getLsbD 3 := decide_chosen nofun
  have overlap : decide ((programOfBuffer b).overlap = .overlap) = b[3].getLsbD 2 := decide_chosen nofun
  have repetition : decide ((programOfBuffer b).repetition = .timer) = b[3].getLsbD 1 := decide_chosen nofun
  have length : decide ((programOfBuffer b).length = .width) = b[3].getLsbD 0 := decide_chosen nofun
  rw [Program.twoValued, priority, policy, overlap, repetition, length]
  exact six_bits_of_word b[3]

/-- The buffer's masks: every position of a field. -/
theorem bufferOfEntry_programOfBuffer (b : Vector Word 16) (i : Fin 16) :
    (bufferOfEntry ⟨b[0].getLsbD 15, programOfBuffer b⟩)[i.val]'i.isLt
      = b[i.val]'i.isLt &&& [0x87FF#16, 0xFFFF, 0x00FF, 0xFF3F, 0xFFFF, 0x00FF, 0xFF1F, 0xFFFF, 0x00FF, 0xFFFF, 0xFFFF,
        0x00FF, 0x003F, 0, 0, 0].getD i.val 0 := by
  fin_cases i
  · exact db0_masked b[0]
  · exact low_word_masked b[2] b[1]
  · exact high_word_masked b[2] b[1]
  · refine Eq.trans ?_ (db3_masked b[3])
    rw [← twoValued_programOfBuffer b]
    rfl
  · exact low_word_masked b[5] b[4]
  · exact high_word_masked b[5] b[4]
  · exact db6_masked b[6]
  · exact low_word_masked b[8] b[7]
  · exact high_word_masked b[8] b[7]
  · exact (BitVec.and_allOnes (x := b[9])).symm
  · exact low_word_masked b[11] b[10]
  · exact high_word_masked b[11] b[10]
  · exact (zero_append (k := 10) (b[12].extractLsb' 0 6)).trans (zeroExtend_low b[12] (by decide))
  all_goals exact (BitVec.and_zero).symm

/-! ## Rings word by word (R86, R87) -/

/-- Word k of a setting set. -/
def SettingSet.word (x : SettingSet) (k : Nat) : Word :=
  if k = 0 then x.integration.extractLsb' 0 16
  else if k = 1 then (x.integration.extractLsb' 16 8).zeroExtend 16
  else if k = 2 then x.gain.zeroExtend 16
  else x.tag.zeroExtend 16

theorem Ring.code_word (r : Ring) {pos : Fin 33} (h : pos.val < 32) :
    r.code pos = (r.sets[pos.val / 4]'(by omega)).word (pos.val % 4) := dif_pos h

theorem Ring.code_length (r : Ring) {pos : Fin 33} (h : ¬ pos.val < 32) : r.code pos = r.length.zeroExtend 16 :=
  dif_neg h

theorem SettingSet.word_put_same (x : SettingSet) {k : Nat} (hk : k < 4) (w : Word) :
    (x.put k w).word k = w &&& (if k = 0 then 0xFFFF else if k = 2 then 0x0FFF else 0x00FF) := by
  match k with
  | 0 => exact BitVec.extractLsb'_append_eq_right.trans (BitVec.and_allOnes (x := w)).symm
  | 1 =>
    exact (congrArg (BitVec.zeroExtend 16) (BitVec.extractLsb'_append_eq_left (a := w.extractLsb' 0 8)
      (b := x.integration.extractLsb' 0 16))).trans (zeroExtend_low w (k := 8) (by decide))
  | 2 => exact zeroExtend_low w (k := 12) (by decide)
  | 3 => exact zeroExtend_low w (k := 8) (by decide)

theorem SettingSet.word_put_other (x : SettingSet) {j k : Nat} (hj : j < 4) (hk : k < 4) (ne : j ≠ k) (w : Word) :
    (x.put k w).word j = x.word j := by
  match j, k with
  | 0, 1 => exact BitVec.extractLsb'_append_eq_right
  | 1, 0 =>
    exact congrArg (BitVec.zeroExtend 16)
      (BitVec.extractLsb'_append_eq_left (a := x.integration.extractLsb' 16 8) (b := w))
  | 0, 0 | 1, 1 | 2, 2 | 3, 3 => exact absurd rfl ne
  | 0, 2 | 0, 3 | 1, 2 | 1, 3 | 2, 0 | 2, 1 | 2, 3 | 3, 0 | 3, 1 | 3, 2 => rfl

theorem Ring.put_word (r : Ring) {pos : Fin 33} (h : pos.val < 32) (w : Word) :
    r.put pos w = { r with
      sets := r.sets.set (pos.val / 4) ((r.sets[pos.val / 4]'(by omega)).put (pos.val % 4) w) (by omega) } := dif_pos h

theorem Ring.put_length (r : Ring) {pos : Fin 33} (h : ¬ pos.val < 32) (w : Word) :
    r.put pos w = { r with length := w.extractLsb' 0 4 } := dif_neg h

theorem Ring.code_put_same (r : Ring) (pos : Fin 33) (w : Word) :
    (r.put pos w).code pos = w &&& (if pos = 32 then 0x000F else if pos.val % 4 = 0 then 0xFFFF
      else if pos.val % 4 = 2 then 0x0FFF else 0x00FF) := by
  by_cases h : pos.val < 32
  · have ne : pos ≠ 32 := fun e => by rw [e] at h; exact absurd h (by decide)
    rw [Ring.code_word _ h, Ring.put_word r h, if_neg ne]
    simp only [Vector.getElem_set_self]
    exact SettingSet.word_put_same _ (Nat.mod_lt _ (by decide)) w
  · have e : pos = 32 := Fin.ext (by have := pos.isLt; show pos.val = 32; omega)
    rw [Ring.code_length _ h, Ring.put_length r h, if_pos e]
    exact zeroExtend_low w (k := 4) (by decide)

theorem Ring.code_put_other (r : Ring) {pos q : Fin 33} (ne : q ≠ pos) (w : Word) : (r.put pos w).code q = r.code q := by
  have ne : q.val ≠ pos.val := fun e => ne (Fin.ext e)
  by_cases hp : pos.val < 32 <;> by_cases hq : q.val < 32
  · rw [Ring.code_word _ hq, Ring.code_word _ hq, Ring.put_word r hp]
    simp only [Vector.getElem_set]
    split
    · rename_i same
      simp only [same]
      exact SettingSet.word_put_other _ (Nat.mod_lt _ (by decide)) (Nat.mod_lt _ (by decide)) (by omega) w
    · rfl
  · rw [Ring.code_length _ hq, Ring.code_length _ hq, Ring.put_word r hp]
  · rw [Ring.code_word _ hq, Ring.code_word _ hq, Ring.put_length r hp]
  · exact absurd (show q.val = pos.val by omega) ne

/-- The four words of set i, in their order (R86). -/
theorem Ring.code_set (r : Ring) (i : SetIx) {k : Nat} (hk : k < 4) :
    r.code (Fin.ofNat 33 (4 * i.val + k)) = (r.sets[i.val]'i.isLt).word k := by
  have val : (Fin.ofNat 33 (4 * i.val + k)).val = 4 * i.val + k := Nat.mod_eq_of_lt (by omega)
  rw [Ring.code_word r (by rw [val]; omega)]
  simp only [val, show (4 * i.val + k) / 4 = i.val by omega, show (4 * i.val + k) % 4 = k by omega]

theorem ringWrite_live {s : State} (live : s.port.ringSel.live = true) (w : Word) : ringWrite w s = advancePos s :=
  congrArg advancePos (if_pos live)

theorem ringWrite_staged {s : State} (staged : s.port.ringSel.live = false) (w : Word) :
    ringWrite w s = advancePos (s.modHead s.port.ringSel.head fun hd =>
      { hd with ring := hd.ring.stage s.port.ringSel.pos w }) :=
  congrArg advancePos (if_neg (by rw [staged]; exact Bool.false_ne_true))

theorem nextPos_eq (pos : Fin 33) : nextPos pos = if pos = 32 then 0 else pos + 1 := by
  revert pos
  decide

/-- The live length word: the pointer and the pending mark beside the length (R87). -/
theorem lengthWord_eq (pending : Bool) (pointer : SetIx) (length : BitVec 4) :
    (BitVec.ofBool pending ++ 0#4 ++ BitVec.ofNat 3 pointer.val ++ 0#4 ++ length : Word)
      = (if pending then 0x8000 else 0) + BitVec.ofNat 16 (256 * pointer.val) + length.zeroExtend 16 := by
  revert pending pointer length
  decide

theorem ringWord_eq (s : State) :
    let sel := s.port.ringSel
    let r := (s.head sel.head).ring
    s.ringWord = if sel.live = false then r.staged.code sel.pos
      else if sel.pos = 32 then
        (if r.applyPending then 0x8000 else 0) + BitVec.ofNat 16 (256 * r.pointer.val) + r.live.length.zeroExtend 16
      else r.live.code sel.pos := by
  intro sel r
  rw [← lengthWord_eq]
  cases live : sel.live
  · exact if_neg (by rw [live]; exact Bool.false_ne_true)
  · exact if_pos live

end Sys2Proof.Machine

namespace Sys2Proof.Proofs

open Sys2Proof.Machine

/-- Settles O24: positions of a ring, then the word written and the word read. -/
theorem ringDataTransfers : Obligations.RingDataTransfers := by
  refine ⟨fun r pos w => ⟨r.code_put_same pos w, fun q ne => r.code_put_other ne w⟩, fun r i => ?_, fun s => ?_⟩
  · intro x
    refine ⟨r.code_set i (k := 0) (by decide), 
      (r.code_set i (k := 1) (by decide)).trans (zero_append (k := 8) (x.integration.extractLsb' 16 8)).symm,
      (r.code_set i (k := 2) (by decide)).trans (zero_append (k := 4) x.gain).symm,
      (r.code_set i (k := 3) (by decide)).trans (zero_append (k := 8) x.tag).symm, (zero_append (k := 12) r.length).symm⟩
  intro sel after r
  have next : { sel with pos := nextPos sel.pos } = after := by rw [nextPos_eq]
  refine ⟨fun w => ⟨_, rfl, ?_, fun live => ?_, fun staged => ?_⟩, congrArg Host.Outcome.next ?_⟩
  · rw [← next]
    obtain live | staged := Bool.eq_false_or_eq_true sel.live
    · rw [ringWrite_live live]
      rfl
    · rw [ringWrite_staged staged]
      rfl
  · rw [ringWrite_live live]
    rfl
  · rw [ringWrite_staged staged]
    exact ⟨head_setHead_self s sel.head _, fun _ ne => head_setHead_ne s ne _, rfl⟩
  · rw [← next, ← ringWord_eq]
    rfl

/-- Settles O15: a buffer filled from an entry holds the entry's program, so both ways read one table. -/
theorem descriptorRoundTrip : Obligations.DescriptorRoundTrip := by
  refine ⟨fun b e => ?_, fun e => ⟨programOfBuffer_bufferOfEntry e, bufferOfEntry_valid e⟩, bufferOfEntry_programOfBuffer⟩
  intro p taken
  obtain ⟨valid, prog⟩ : b[0].getLsbD 15 = e.valid ∧ p = programOfBuffer b := by
    obtain rfl | ⟨valid, prog⟩ := taken
    · exact ⟨bufferOfEntry_valid e, (programOfBuffer_bufferOfEntry e).symm⟩
    · exact ⟨valid.symm, prog⟩
  clear_value p
  subst prog
  have field (i : Nat) (hi : i < 5) : b[3].getLsbD (11 + i) = (b[3].extractLsb' 11 5).getLsbD i := by
    rw [BitVec.getLsbD_extractLsb', decide_eq_true hi, Bool.true_and]
  have low (hi lo : Word) : lo = (hi.extractLsb' 0 8 ++ lo).extractLsb' 0 16 := BitVec.extractLsb'_append_eq_right.symm
  have high (hi lo : Word) : hi.extractLsb' 0 8 = (hi.extractLsb' 0 8 ++ lo).extractLsb' 16 8 :=
    BitVec.extractLsb'_append_eq_left.symm
  refine ⟨valid, rfl, fun src => ?_, low _ _, high _ _, chosen_iff nofun, chosen_iff nofun, chosen_iff nofun,
    chosen_iff nofun, chosen_iff nofun, rfl, rfl, field 0 (by decide), field 1 (by decide), field 2 (by decide),
    field 3 (by decide), field 4 (by decide), low _ _, high _ _, rfl, rfl, low _ _, high _ _, rfl, low _ _, high _ _, rfl⟩
  have small : src.code < 11 := by cases src <;> simp only [Source.code] <;> omega
  have bit : (programOfBuffer b).hasSource src = b[0].getLsbD src.code := by
    show (b[0].extractLsb' 0 11).getLsbD src.code = _
    rw [BitVec.getLsbD_extractLsb', decide_eq_true small, Bool.true_and, Nat.zero_add]
  rw [bit]
  cases src <;> rfl

end Sys2Proof.Proofs
end

section
/-! PROOFS. The frames of the link: the check byte as a division of polynomials, and a COMPLETE frame's examination
(Section 11.4). -/

namespace Sys2Proof.Machine

/-! ## The check byte (R182) -/

/-- A register that n zero bits have entered. -/
def crcSteps : Nat → Byte → Byte
  | 0, c => c
  | n + 1, c => crcBit (crcSteps n c) false

/-- The product of a byte and x^8 + x^2 + x + 1 in the polynomials over the field of two elements. -/
def timesGenerator (q : Byte) : Word :=
  q.zeroExtend 16 <<< 8 ^^^ q.zeroExtend 16 <<< 2 ^^^ q.zeroExtend 16 <<< 1 ^^^ q.zeroExtend 16

theorem crcBit_eq (c : Byte) (b : Bool) : crcBit c b = (c <<< 1) ^^^ (if c.msb != b then 7 else 0) := by
  rw [crcBit]
  split
  · rfl
  · exact BitVec.xor_zero.symm

/-- A bit that enters with the register acts as one that was added to it. -/
theorem crcBit_xor (s y : Byte) : crcBit (s ^^^ y) false = crcBit s y.msb ^^^ (y <<< 1) := by
  rw [crcBit_eq, crcBit_eq, BitVec.msb_xor, BitVec.shiftLeft_xor_distrib, Bool.bne_false]
  ac_rfl

/-- The first n bits of a byte, entered one by one, against the byte added at the start. -/
theorem crcBits_eq_crcSteps (c b : Byte) {n : Nat} (hn : n ≤ 8) :
    (List.range n).foldl (fun r i => crcBit r (b.getLsbD (7 - i))) c = crcSteps n (c ^^^ b) ^^^ (b <<< n) := by
  induction n with
  | zero => simp [crcSteps]
  | succ n ih =>
    have top : (b <<< n).msb = b.getLsbD (7 - n) := by
      rw [BitVec.msb_eq_getLsbD_last, BitVec.getLsbD_shiftLeft]
      simp
      omega
    have step := crcBit_xor (crcSteps n (c ^^^ b) ^^^ (b <<< n)) (b <<< n)
    rw [BitVec.xor_assoc, BitVec.xor_self, BitVec.xor_zero, top] at step
    rw [List.range_succ, List.foldl_append, ih (by omega), List.foldl_cons, List.foldl_nil, crcSteps, step, BitVec.xor_assoc]
    simp [BitVec.shiftLeft_add]

theorem crcByte_eq_crcSteps (c b : Byte) : crcByte c b = crcSteps 8 (c ^^^ b) :=
  calc crcByte c b = (List.range 8).foldl (fun r i => crcBit r (b.getLsbD (7 - i))) c := rfl
    _ = crcSteps 8 (c ^^^ b) ^^^ (b <<< 8) := crcBits_eq_crcSteps c b le_rfl
    _ = crcSteps 8 (c ^^^ b) := by rw [BitVec.shiftLeft_eq_zero le_rfl, BitVec.xor_zero]

/-- One step of the register takes the generator off when a one leaves it. -/
theorem crcBit_divides : ∀ c : Byte, (c.zeroExtend 16 <<< 1 : Word)
    = (if c.msb then timesGenerator 1 else 0) ^^^ (crcBit c false).zeroExtend 16 := by
  decide

theorem timesGenerator_next : ∀ (q : Byte) (m : Bool), q.toNat < 128 →
    timesGenerator (q <<< 1 ^^^ (if m then 1 else 0)) = timesGenerator q <<< 1 ^^^ (if m then timesGenerator 1 else 0) := by
  decide

/-- After n steps the register holds the remainder, and a quotient of n bits has left it. -/
theorem crcSteps_divides (c : Byte) {n : Nat} (hn : n ≤ 8) : ∃ q : Byte, q.toNat < 2 ^ n
    ∧ (c.zeroExtend 16 <<< n : Word) = timesGenerator q ^^^ (crcSteps n c).zeroExtend 16 := by
  induction n with
  | zero => exact ⟨0, by decide, by simp [timesGenerator, crcSteps]⟩
  | succ n ih =>
    obtain ⟨q, small, e⟩ := ih (by omega)
    have le : 2 ^ n ≤ 2 ^ 7 := Nat.pow_le_pow_right (by decide) (by omega)
    refine ⟨q <<< 1 ^^^ (if (crcSteps n c).msb then 1 else 0), ?_, ?_⟩
    · rw [BitVec.toNat_xor]
      refine Nat.xor_lt_two_pow ?_ ?_
      · rw [BitVec.toNat_shiftLeft, Nat.shiftLeft_eq, Nat.pow_succ]
        exact lt_of_le_of_lt (Nat.mod_le _ _) (by omega)
      · have := Nat.two_pow_pos n
        rw [Nat.pow_succ]
        have bit : (if (crcSteps n c).msb then 1 else 0 : Byte).toNat ≤ 1 := by split <;> decide
        omega
    · rw [timesGenerator_next q _ (by omega), BitVec.shiftLeft_add, e, BitVec.shiftLeft_xor_distrib, crcBit_divides,
        BitVec.xor_assoc]
      rfl

theorem crc8_append (l : List Byte) (b : Byte) : crc8 (l ++ [b]) = crcSteps 8 (crc8 l ^^^ b) := by
  rw [crc8, List.foldl_append, List.foldl_cons, List.foldl_nil]
  exact crcByte_eq_crcSteps _ b

/-! ## COMPLETE frames (R120, R182) -/

theorem statusOfCode_codeOfStatus (status : Status) : statusOfCode (codeOfStatus status) = some status := by
  cases status <;> decide

theorem statusOfCode_some {code : Byte} {status : Status} (e : statusOfCode code = some status) :
    code = codeOfStatus status := by
  simp only [statusOfCode] at e
  split_ifs at e with one two three <;> cases e
  · exact one
  · exact two
  · exact three

theorem examineFrame_completeFrame (tag : Byte) (status : Status) (level : Word) :
    examineFrame (completeFrame tag status level) = some (tag, status, level) := by
  have whole : level.extractLsb' 8 8 ++ level.extractLsb' 0 8 = level := BitVec.extractLsb'_append_extractLsb'
  simp only [examineFrame, completeFrame, and_self, if_true, statusOfCode_codeOfStatus, Option.map_some, whole]

/-- A frame examined as a COMPLETE is the frame of that COMPLETE. -/
theorem completeFrame_of_examineFrame {f : RxFrame} {tag : Byte} {status : Status} {level : Word}
    (e : examineFrame f = some (tag, status, level)) : f = completeFrame tag status level := by
  obtain ⟨b0, b1, b2, b3, b4, b5⟩ := f
  simp only [examineFrame] at e
  split_ifs at e with passes
  obtain ⟨check, first⟩ := passes
  obtain ⟨st, code, same⟩ := Option.map_eq_some_iff.1 e
  have code := statusOfCode_some code
  cases same
  subst check first code
  have hi : (b3 ++ b4).extractLsb' 8 8 = b3 := BitVec.extractLsb'_append_eq_left
  have lo : (b3 ++ b4).extractLsb' 0 8 = b4 := BitVec.extractLsb'_append_eq_right
  simp only [completeFrame, hi, lo]

end Sys2Proof.Machine

namespace Sys2Proof.Proofs

open Sys2Proof.Machine

/-- Settles O16: each byte's steps divide by the generator, and the examination reads the frame's own bytes. -/
theorem completeFrameRoundTrip : Obligations.CompleteFrameRoundTrip := by
  refine ⟨⟨rfl, fun l b => ?_⟩, fun tag status level => ?_⟩
  · obtain ⟨q, -, e⟩ := crcSteps_divides (crc8 l ^^^ b) (n := 8) le_rfl
    exact ⟨q, by rw [crc8_append]; exact e⟩
  · refine ⟨by cases status <;> rfl, examineFrame_completeFrame tag status level, fun f => completeFrame_of_examineFrame⟩

end Sys2Proof.Proofs
end

section
/-! PROOFS. The words of the records (Sections 8.2 to 8.4 and 11.5). -/

namespace Sys2Proof.Machine

/-! ## HDR (Table 11.7) -/

section Header

variable (type origin : BitVec 3) (restart : Bool) (len : Nat)

theorem hdrWord_len : (hdrWord type origin restart len).extractLsb' 0 4 = BitVec.ofNat 4 len :=
  BitVec.extractLsb'_append_eq_right

theorem hdrWord_zero : (hdrWord type origin restart len).extractLsb' 4 5 = 0 :=
  (BitVec.extractLsb'_append_eq_of_le (xhi := type ++ origin ++ BitVec.ofBool restart ++ 0#5) (by decide)).trans
    BitVec.extractLsb'_append_eq_right

theorem hdrWord_restart : (hdrWord type origin restart len).getLsbD 9 = restart := by
  rw [hdrWord, BitVec.getLsbD_append, BitVec.getLsbD_append, BitVec.getLsbD_append]
  cases restart <;> rfl

theorem hdrWord_origin : (hdrWord type origin restart len).extractLsb' 10 3 = origin :=
  calc (hdrWord type origin restart len).extractLsb' 10 3
      = (type ++ origin ++ BitVec.ofBool restart ++ 0#5).extractLsb' 6 3 := BitVec.extractLsb'_append_eq_of_le (by decide)
    _ = (type ++ origin ++ BitVec.ofBool restart).extractLsb' 1 3 := BitVec.extractLsb'_append_eq_of_le (by decide)
    _ = (type ++ origin).extractLsb' 0 3 := BitVec.extractLsb'_append_eq_of_le (by decide)
    _ = origin := BitVec.extractLsb'_append_eq_right

theorem hdrWord_type : (hdrWord type origin restart len).extractLsb' 13 3 = type :=
  calc (hdrWord type origin restart len).extractLsb' 13 3
      = (type ++ origin ++ BitVec.ofBool restart ++ 0#5).extractLsb' 9 3 := BitVec.extractLsb'_append_eq_of_le (by decide)
    _ = (type ++ origin ++ BitVec.ofBool restart).extractLsb' 4 3 := BitVec.extractLsb'_append_eq_of_le (by decide)
    _ = (type ++ origin).extractLsb' 3 3 := BitVec.extractLsb'_append_eq_of_le (by decide)
    _ = type := BitVec.extractLsb'_append_eq_left

end Header

/-! ## Optional fields (Table 8.1) -/

theorem optWords_eq {α : Type} (f : α → List Word) (o : Option α) : optWords f o = o.toList.flatMap f := by
  cases o <;> simp [optWords]

theorem length_optWords {α : Type} {f : α → List Word} {k : Nat} (hf : ∀ x, (f x).length = k) (o : Option α) :
    (optWords f o).length = if o.isSome then k else 0 := by
  cases o with
  | none => rfl
  | some x => exact hf x

theorem optWords_gap (gap : Option Word) : optWords (fun g => [g]) gap = gap.toList := by
  cases gap <;> rfl

/-! ## The layouts of the words (Table 11.8) -/

theorem sourceCode_toNat (src : Option Source) : (sourceCode src).toNat = (src.map Source.code).getD 15 := by
  cases src with
  | none => rfl
  | some src => cases src with
    | line n => exact Nat.mod_eq_of_lt (show n.val < 16 by omega)
    | soft => rfl
    | rate g => exact Nat.mod_eq_of_lt (show 9 + g.val < 16 by omega)

theorem toNat_append_add {m n : Nat} (x : BitVec m) (y : BitVec n) : (x ++ y).toNat = x.toNat * 2 ^ n + y.toNat := by
  rw [BitVec.toNat_append, ← Nat.shiftLeft_add_eq_or_of_lt y.isLt, Nat.shiftLeft_eq]

/-- A DETAIL word: a two-bit code in bits 13:12 and a small one at the foot. -/
theorem drop_word (reason : DropReason) (src : Option Source) : 0#2 ++ reason.code ++ 0#8 ++ sourceCode src
    = BitVec.ofNat 16 (0x1000 * reason.code.toNat + (src.map Source.code).getD 15) := by
  have small := (sourceCode src).isLt
  have code := reason.code.isLt
  rw [← sourceCode_toNat]
  apply BitVec.eq_of_toNat_eq
  simp only [toNat_append_add, BitVec.toNat_ofNat]
  omega

theorem discard_word (code : BitVec 2) (discarded : BitVec 5) : 0#2 ++ code ++ 0#7 ++ discarded
    = BitVec.ofNat 16 (0x1000 * code.toNat + discarded.toNat) := by
  have small := discarded.isLt
  have code := code.isLt
  apply BitVec.eq_of_toNat_eq
  simp only [toNat_append_add, BitVec.toNat_ofNat]
  omega

theorem end_word (reason : EndReason) (code : Option ValCode) (program : EntryIx) :
    reason.code ++ 0#3 ++ valCode code ++ 0#3 ++ BitVec.ofNat 5 program.val
      = BitVec.ofNat 16 (0x4000 * reason.code.toNat + 0x0100 * (valCode code).toNat + program.val) := by
  have reasons := reason.code.isLt
  have codes := (valCode code).isLt
  apply BitVec.eq_of_toNat_eq
  simp only [toNat_append_add, BitVec.toNat_ofNat]
  omega

theorem next_word (n : EntryIx) : 1#1 ++ 0#10 ++ BitVec.ofNat 5 n.val = BitVec.ofNat 16 (0x8000 + n.val) := by
  apply BitVec.eq_of_toNat_eq
  simp only [toNat_append_add, BitVec.toNat_ofNat]
  omega

/-- The first word of CAUSE: the kind, and a source unless it is PACED. -/
theorem cause_word (kind : BitVec 2) (src : Source) :
    0#2 ++ kind ++ 0#8 ++ sourceCode (some src) = BitVec.ofNat 16 (0x1000 * kind.toNat + src.code) := by
  have small := (sourceCode (some src)).isLt
  have kinds := kind.isLt
  rw [show src.code = (sourceCode (some src)).toNat from (sourceCode_toNat (some src)).symm]
  apply BitVec.eq_of_toNat_eq
  simp only [toNat_append_add, BitVec.toNat_ofNat]
  omega

theorem setWords_eq (x : SetIx × Byte × BitVec 12) : setWords x
    = [BitVec.ofNat 16 (256 * x.1.val + x.2.1.toNat), x.2.2.zeroExtend 16 &&& 0x03FF] := by
  obtain ⟨i, tag, gain⟩ := x
  have first : (0#5 ++ BitVec.ofNat 3 i.val ++ tag : Word) = BitVec.ofNat 16 (256 * i.val + tag.toNat) := by
    have small := tag.isLt
    apply BitVec.eq_of_toNat_eq
    simp only [toNat_append_add, BitVec.toNat_ofNat]
    omega
  have second : (0#6 ++ gain.extractLsb' 0 10 : Word) = gain.zeroExtend 16 &&& 0x03FF := by
    refine Eq.trans ?_ (zeroExtend_low (gain.zeroExtend 16) (k := 10) (by decide))
    apply BitVec.eq_of_toNat_eq
    simp only [toNat_append_add, BitVec.toNat_setWidth, BitVec.extractLsb'_toNat, BitVec.toNat_ofNat, Nat.shiftRight_zero]
    omega
  simp only [setWords, first, second]

theorem captureFlags_bits (f : CaptureFlags) : f.word.getLsbD 0 = f.stretched ∧ f.word.getLsbD 1 = f.dark
    ∧ f.word.getLsbD 2 = f.late ∧ f.word.getLsbD 3 = f.aborted ∧ f.word.getLsbD 4 = f.overrun
    ∧ f.word.getLsbD 5 = f.digerr ∧ f.word.extractLsb' 6 10 = 0 := by
  obtain ⟨a, b, c, d, e, g⟩ := f
  revert a b c d e g
  decide

/-! ## Lengths (R131) -/

section Lengths

variable (gap : Option Word) (time : Option Stamp)

theorem length_gap : (optWords (fun g => [g]) gap).length = if gap.isSome then 1 else 0 := 
  length_optWords (f := fun g => [g]) (k := 1) (fun _ => rfl) gap

theorem length_twoWords : (optWords twoWords time).length = if time.isSome then 2 else 0 :=
  length_optWords (f := twoWords) (k := 2) (fun _ => rfl) time

theorem length_optWords_le {α : Type} {f : α → List Word} {k : Nat} (hf : ∀ x, (f x).length = k) (o : Option α) :
    (optWords f o).length ≤ k := by
  rw [length_optWords hf]
  split <;> omega

end Lengths

/-- The words after SEQ are at most twelve, and at least one. -/
theorem Body.words_length_le (gap : Option Word) (body : Body) : (body.words gap).length ≤ 12 := by
  have one := length_optWords_le (f := fun g : Word => [g]) (k := 1) (fun _ => rfl) gap
  have two := length_optWords_le (f := twoWords) (k := 2) (fun _ => rfl)
  cases body with
  | capture f time span set cause result =>
    have sets := length_optWords_le (f := setWords) (k := 2) (fun _ => rfl) set
    have causes := length_optWords_le (f := causeWords) (k := 2) (fun _ => rfl) cause
    have results := length_optWords_le (f := resultWords) (k := 2) (fun _ => rfl) result
    have times := two time
    have spans := two span
    simp only [Body.words, List.length_cons, List.length_append]
    omega
  | drop reason src time =>
    have times := two time
    simp only [Body.words, List.length_cons, List.length_append]
    omega
  | abort discarded fate =>
    simp only [Body.words, List.length_cons]
    omega
  | burstEnd reason code program next =>
    simp only [Body.words, List.length_cons]
    omega
  | fault code discarded time =>
    simp only [Body.words, twoWords, List.length_cons, List.length_append, List.length_nil]
    omega

theorem Record.words_ofHead (h : HeadIx) (restart : Bool) (seq : Word) (gap : Option Word) (body : Body) :
    (Record.ofHead h restart seq gap body).words
      = hdrWord body.typeCode (BitVec.ofNat 3 (h.val + 1)) restart ((body.words gap).length + 2) :: seq :: body.words gap :=
  rfl

end Sys2Proof.Machine

namespace Sys2Proof.Proofs

open Sys2Proof.Machine

/-- Settles O17: HDR's items and the lengths, then the words of each type. -/
theorem recordHeaderCountsItsWords : Obligations.RecordHeaderCountsItsWords := by
  refine ⟨fun r => ?_, fun h restart seq gap => ?_⟩
  · cases r with
    | mark tag =>
      exact ⟨(by decide : 2 ≤ 2), (by decide : 2 ≤ 14), _, _, rfl,
        (by decide : ((hdrWord 6 5 false 2).extractLsb' 0 4).toNat = 2), by decide, rfl, by decide, by decide, by decide⟩
    | ofHead h restart seq gap body =>
      have short := body.words_length_le gap
      have length : (Record.ofHead h restart seq gap body).words.length = (body.words gap).length + 2 := rfl
      have count : (BitVec.ofNat 4 ((body.words gap).length + 2)).toNat = (body.words gap).length + 2 :=
        Nat.mod_eq_of_lt (by omega)
      have origin : (BitVec.ofNat 3 (h.val + 1)).toNat = h.val + 1 := Nat.mod_eq_of_lt (by omega)
      refine ⟨by rw [length]; omega, by rw [length]; omega, _, _, rfl, ?_, hdrWord_zero .., rfl, ?_, hdrWord_restart .., ?_⟩
      · rw [hdrWord_len, count, length]
      · rw [hdrWord_origin, origin]
      · have one := length_gap gap
        cases body with
        | capture f time span set cause result =>
          refine ⟨hdrWord_type .., ?_⟩
          have sets := length_optWords (f := setWords) (k := 2) (fun _ => rfl) set
          have causes := length_optWords (f := causeWords) (k := 2) (fun _ => rfl) cause
          have results := length_optWords (f := resultWords) (k := 2) (fun _ => rfl) result
          rw [length]
          simp only [Body.words, List.length_cons, List.length_append, one, length_twoWords, sets, causes, results]
          omega
        | drop reason src time =>
          refine ⟨hdrWord_type .., ?_⟩
          rw [length]
          simp only [Body.words, List.length_cons, List.length_append, one, length_twoWords]
          omega
        | abort discarded fate =>
          refine ⟨hdrWord_type .., ?_⟩
          rw [length]
          simp only [Body.words, List.length_cons, one]
          omega
        | burstEnd reason code program next =>
          refine ⟨hdrWord_type .., ?_⟩
          rw [length]
          simp only [Body.words, List.length_cons, one]
          omega
        | fault code discarded time =>
          refine ⟨hdrWord_type .., ?_⟩
          rw [length]
          simp only [Body.words, twoWords, List.length_cons, List.length_append, List.length_nil, one]
          omega
  intro after two number
  refine ⟨fun f time span set cause result => ?_, fun reason src time => ?_, fun discarded fate => ?_,
    fun reason code program next => ?_, fun code discarded time => ?_⟩
  · refine ⟨f.word, ?_, captureFlags_bits f⟩
    show f.word :: (optWords (fun g => [g]) gap ++ optWords twoWords time ++ optWords twoWords span
      ++ optWords setWords set ++ optWords causeWords cause ++ optWords resultWords result) = _
    have kinds (x : StartKind × Word) : causeWords x = [BitVec.ofNat 16 (match x.1 with
        | .triggered src => 0x1000 + number src
        | .latched src => 0x2000 + number src
        | .paced => 0x3000), x.2] := by
      obtain ⟨src | src | _, w⟩ := x
      · exact congrArg (fun v => [v, w]) ((cause_word 1 src).trans (by cases src <;> rfl))
      · exact congrArg (fun v => [v, w]) ((cause_word 2 src).trans (by cases src <;> rfl))
      · exact congrArg (fun v => [v, w]) (show (0#2 ++ 3#2 ++ 0#12 : Word) = 0x3000 by decide)
    have statuses (x : Status × Word) : resultWords x = [match x.1 with
        | .good => 1
        | .error => 2
        | .reject => 3, x.2] := by
      obtain ⟨status, w⟩ := x
      cases status <;> rfl
    rw [optWords_gap, optWords_eq, optWords_eq, optWords_eq, optWords_eq, optWords_eq, funext setWords_eq, funext kinds,
      funext statuses]
    rfl
  · show (0#2 ++ reason.code ++ 0#8 ++ sourceCode src) :: (optWords (fun g => [g]) gap ++ optWords twoWords time) = _
    rw [optWords_gap, optWords_eq, drop_word]
    cases reason <;> cases src <;> rfl
  · show (0#2 ++ fate.code ++ 0#7 ++ discarded) :: optWords (fun g => [g]) gap = _
    rw [optWords_gap, discard_word]
    cases fate <;> rfl
  · have reasons : 0x4000 * reason.code.toNat = (match reason with
        | .complete => 0
        | .stopped => 0x4000
        | .linkInvalid => 0x8000) := by
      cases reason <;> rfl
    have codes : 0x0100 * (valCode code).toNat = (match code with
        | none => 0
        | some .invalidEntry => 0x0100
        | some .noSource => 0x0200
        | some .widthSource => 0x0300
        | some .widthRepeat => 0x0400
        | some .range => 0x0500) := by
      obtain _ | c := code
      · rfl
      · cases c <;> rfl
    have first := end_word reason code program
    rw [reasons, codes] at first
    cases next with
    | none => exact congrArg₂ (· :: 0 :: ·) first (optWords_gap gap)
    | some n => exact congrArg₂ (· :: ·) first (congrArg₂ (· :: ·) (next_word n) (optWords_gap gap))
  · show (0#2 ++ code.code ++ 0#7 ++ discarded) :: (twoWords time ++ optWords (fun g => [g]) gap) = _
    rw [optWords_gap, discard_word]
    cases code <;> rfl

end Sys2Proof.Proofs
end

section
/-! PROOFS. The host port: what each row leaves of it (Sections 11.1 and 11.3). -/

namespace Sys2Proof.Machine

variable {s t : State}

/-! ## What leaves the port as it was -/

theorem Moved.port (m : Moved s t) : t.port = s.port := by
  obtain ⟨_, _, _, _, _, _, _, rfl⟩ := m
  rfl

theorem offer_port (h : HeadIx) (body : Body) (s : State) : (offer h body s).port = s.port := by
  obtain ⟨_, _, _, e⟩ := offer_frame s h body
  rw [e]
  rfl

theorem teardown_port (h : HeadIx) (s : State) : (teardown h s).port = s.port := by
  obtain ⟨_, _, e⟩ := teardown_frame s h
  rw [e]

theorem enterDraining_port (h : HeadIx) (s : State) : (enterDraining h s).port = s.port := by
  obtain ⟨_, _, e⟩ := enterDraining_frame s h
  rw [e]
  rfl

theorem stopHead_port (h : HeadIx) (s : State) : (stopHead h s).port = s.port := by
  simp only [stopHead]
  split
  · split
    · rfl
    · rw [enterDraining_port, offer_port, teardown_port]
  · rfl

theorem abortHead_port (h : HeadIx) (s : State) : (abortHead h s).port = s.port := by
  have slot (s : State) : (abortSlot h s).2.port = s.port := by
    obtain ⟨_, _, e⟩ := abortSlot_slot_frame h s
    rw [e]
    rfl
  have state (fate : SlotFate) (s : State) : (abortState h fate s).port = s.port := by cases fate <;> rfl
  simp only [abortHead]
  split
  · rfl
  · rfl
  · rfl
  all_goals rw [state, offer_port, slot, teardown_port]

theorem headReset_port (h : HeadIx) (s : State) : (headReset h s).port = s.port := by
  obtain ⟨_, _, _, _, e⟩ := headReset_frame s h
  rw [e]

theorem onHead_port {act : HeadIx → State → Verdict × State} (keeps : ∀ h, (act h s).2.port = s.port) :
    (onHead act s).2.port = s.port := by
  simp only [onHead]
  split
  · exact keeps _
  · rfl

/-- No command of Table 11.4 acts on the port. -/
theorem actOf_port (c : CmdName) (s : State) : (actOf c s).2.port = s.port := by
  cases c with
  | start =>
    simp only [actOf, cmdStart]
    repeat' split
    all_goals rfl
  | stop => exact onHead_port fun h => stopHead_port h s
  | abort => exact onHead_port fun h => abortHead_port h s
  | clear => exact onHead_port fun h => by split <;> rfl
  | headReset => exact onHead_port fun h => headReset_port h s
  | softTrigger => exact deliverAssert_port ..
  | apply => exact onHead_port fun h => by split <;> rfl
  | mark =>
    simp only [actOf, cmdMark]
    split <;> rfl
  | discard | tbLoad | softReset => rfl
  | programWrite =>
    simp only [actOf, cmdProgramWrite]
    split <;> rfl
  | programRead =>
    simp only [actOf, cmdProgramRead]
    split <;> rfl
  | programClear =>
    simp only [actOf, cmdProgramClear]
    split <;> rfl

/-! ## Command words -/

theorem resultWord_code (v : Verdict) (code : Byte) : (resultWord v code).extractLsb' 0 8 = code :=
  BitVec.extractLsb'_append_eq_right

theorem resultWord_unused (v : Verdict) (code : Byte) : (resultWord v code).getLsbD 11 = false := by
  have e := congrArg (fun w : Word => w.getLsbD 11) (resultWord_and_items v code)
  simp only [BitVec.getLsbD_and] at e
  rw [← e, show (0xF7FF : Word).getLsbD 11 = false from rfl, Bool.and_false]

/-- The port after a command word: CMD and RESULT, and the transaction at CMD. -/
theorem commandWord_at_port (c : CmdName) (u : Byte) (s : State) : ∃ v : Verdict,
    (commandWord c (actOf c) u s).port = { s.port with
      cmd := u ++ codeOfCmd c, result := resultWord v (codeOfCmd c), transaction := some ⟨false, 0x02⟩, sdo := none } := by
  have port := actOf_port c s
  obtain ⟨⟨v, t⟩, e⟩ : ∃ r, actOf c s = r := ⟨_, rfl⟩
  rw [e] at port
  refine ⟨v, ?_⟩
  simp only [commandWord, takeWith, e, afterWrite]
  rw [show t.port = s.port from port]
  rfl

/-- A word that carries a code Table 11.4 does not list. -/
theorem takeWord_unlisted {w : Word} (unlisted : cmdOfCode (w.extractLsb' 0 8) = none) (s : State) :
    takeWord w s = { s with port := { s.port with cmd := w, result := 0xA0#8 ++ w.extractLsb' 0 8 } } := by
  have whole : w.extractLsb' 8 8 ++ w.extractLsb' 0 8 = w := BitVec.extractLsb'_append_extractLsb'
  have act : actOfCode (w.extractLsb' 0 8) s = (.badArg, s) := by rw [actOfCode, unlisted]
  rw [takeWord, takeWith, act]
  simp only [whole]
  rfl

theorem cmdOfCode_none {code : Byte} (unlisted : code ∉ [0x01#8, 0x02#8, 0x03#8, 0x04#8, 0x05#8, 0x06#8, 0x07#8, 0x08#8,
    0x09#8, 0x10#8, 0x11#8, 0x12#8, 0x20#8, 0x5A#8]) : cmdOfCode code = none := by
  have codes : allCmds.map codeOfCmd = [0x01#8, 0x02#8, 0x03#8, 0x04#8, 0x05#8, 0x06#8, 0x07#8, 0x08#8, 0x09#8, 0x10#8,
    0x11#8, 0x12#8, 0x20#8, 0x5A#8] := by decide
  rw [← codes] at unlisted
  refine List.find?_eq_none.2 fun c hc same => unlisted ?_
  rw [← eq_of_beq same]
  exact List.mem_map_of_mem hc

/-! ## Words of the other registers -/

theorem nextAddr_headDrop : ∀ h : HeadIx, nextAddr (0x2C#7 + BitVec.ofNat 7 h.val) = 0x2C#7 + BitVec.ofNat 7 h.val + 1 := by
  decide

theorem nextAddr_lineCfg : ∀ n : LineIx, nextAddr (lineCfgAddr n) = lineCfgAddr n + 1 := by decide

theorem nextAddr_rateHi : ∀ g : RateIx, nextAddr (rateLoAddr g + 1) = rateLoAddr g + 1 + 1 := by decide

theorem nextAddr_rateCtl : ∀ g : RateIx, nextAddr (rateLoAddr g + 2) = rateLoAddr g + 2 + 1 := by decide

theorem rateHiAddr_eq : ∀ g : RateIx, 0x45#7 + 4#7 * BitVec.ofNat 7 g.val = rateLoAddr g + 1 := by decide

theorem rateCtlAddr_eq : ∀ g : RateIx, 0x46#7 + 4#7 * BitVec.ofNat 7 g.val = rateLoAddr g + 2 := by decide

theorem afterWrite_port {a : Addr} {u s : State} (listed : nextAddr a = a + 1) (port : u.port = s.port) :
    (afterWrite a u).port = { s.port with transaction := some ⟨false, a + 1⟩, sdo := none } := by
  rw [afterWrite, port, listed]

theorem enableHead_port (h : HeadIx) (s : State) : (enableHead h s).port = s.port := by
  obtain ⟨_, e⟩ := enableHead_frame (h := h) (s := s)
  rw [e]

theorem disableHead_port (h : HeadIx) (s : State) : (disableHead h s).port = s.port := by
  obtain ⟨_, _, _, _, e⟩ := disableHead_frame (h := h) (s := s)
  rw [e]

theorem releaseIfActive_port (n : LineIx) (l : Line) (s : State) : (releaseIfActive n l s).port = s.port := by
  simp only [releaseIfActive]
  repeat' split
  · exact deliverRelease_port n s
  all_goals rfl

theorem writeLineCfg_port (n : LineIx) (enable low : Bool) (code : Byte) (s : State) :
    (writeLineCfg n enable low code s).port = s.port := by
  simp only [writeLineCfg]
  split
  · rfl
  · rfl
  · exact releaseIfActive_port ..
  · split
    · rfl
    · exact releaseIfActive_port ..

theorem tryGrant_port (s : State) : (tryGrant s).port = s.port := by
  obtain ⟨_, _, _, e⟩ := tryGrant_frame s
  rw [e]

theorem writeLinkCfg_port (on : Bool) (s : State) : (writeLinkCfg on s).port = s.port := by
  simp only [writeLinkCfg]
  split
  · exact tryGrant_port _
  · rfl

theorem writeDivider_port (w : Word) (s : State) : (writeDivider w s).port = s.port := by
  simp only [writeDivider]
  split <;> rfl

/-! ## Rows that are no host word -/

theorem qualifyLine_port (n : LineIx) (high : Bool) (s : State) : (qualifyLine n high s).port = s.port := by
  simp only [qualifyLine]
  split
  · exact deliverAssert_port ..
  · exact deliverRelease_port ..

theorem sampleLine_port (n : LineIx) (high : Bool) (s : State) : (sampleLine n high s).port = s.port := by
  simp only [sampleLine]
  repeat' split
  · rfl
  · rfl
  · rfl
  · exact qualifyLine_port ..
  · rfl

theorem expireFilter_port (n : LineIx) (s : State) : (expireFilter n s).port = s.port := by
  simp only [expireFilter]
  repeat' split
  · exact qualifyLine_port ..
  all_goals rfl

theorem expirePeriod_port (g : RateIx) (s : State) : (expirePeriod g s).port = s.port := by
  simp only [expirePeriod]
  repeat' split
  · rfl
  · exact deliverAssert_port ..
  all_goals rfl

theorem attemptStart_port (h : HeadIx) (s : State) : (attemptStart h s).port = s.port := by
  obtain ⟨_, _, e⟩ := attemptStart_frame s h
  rw [e]
  rfl

theorem pacedAttempt_port (h : HeadIx) (n : Word) (time : Stamp) (s : State) :
    (pacedAttempt h n time s).port = s.port := by
  obtain ⟨_, _, e⟩ := pacedAttempt_frame s h n time
  rw [e]
  rfl

theorem enterPacing_port (h : HeadIx) (s : State) : (enterPacing h s).port = s.port := by
  obtain ⟨_, _, e⟩ := enterPacing_frame s h
  rw [e]
  rfl

theorem dropTrigger_port (h : HeadIx) (r : DropReason) (src : Option Source) (time : Stamp) (s : State) :
    (dropTrigger h r src time s).port = s.port := by
  obtain ⟨_, _, _, e⟩ := dropTrigger_frame s h r src time
  rw [e]
  rfl

theorem endCondition_port (h : HeadIx) (overrun : Bool) (s : State) : (endCondition h overrun s).port = s.port := by
  obtain ⟨_, _, _, _, _, e⟩ := endCondition_frame s h overrun
  rw [e]

theorem expireDelay_port (h : HeadIx) (s : State) : (expireDelay h s).port = s.port := by
  simp only [expireDelay]
  split
  · exact attemptStart_port ..
  · rfl

theorem expireSpacing_port (h : HeadIx) (s : State) : (expireSpacing h s).port = s.port := by
  simp only [expireSpacing]
  repeat' split
  · exact pacedAttempt_port ..
  all_goals rfl

theorem expireStrobeWait_port (h : HeadIx) (s : State) : (expireStrobeWait h s).port = s.port := by
  simp only [expireStrobeWait]
  repeat' split
  · rfl
  · exact dropTrigger_port ..
  · exact dropTrigger_port ..
  · exact dropTrigger_port ..
  · exact (enterPacing_port ..).trans (dropTrigger_port ..)
  · rfl

theorem headFault_port (h : HeadIx) (code : FaultCode) (s : State) : (headFault h code s).port = s.port := by
  obtain ⟨_, _, _, _, e⟩ := headFault_frame s h code
  rw [e]

theorem expireReadout_port (s : State) : (expireReadout s).port = s.port := by
  simp only [expireReadout]
  split
  · exact headFault_port ..
  · rfl
  · rfl

theorem takeComplete_port (tag : Byte) (status : Status) (level : Word) (s : State) :
    (takeComplete tag status level s).port = s.port :=
  (takeComplete_moved s tag status level).port

theorem receiveFrame_port (f : RxFrame) (s : State) : (receiveFrame f s).port = s.port := by
  simp only [receiveFrame]
  repeat' split
  · rfl
  · exact takeComplete_port ..
  · rfl

end Sys2Proof.Machine

namespace Sys2Proof.Proofs

open Sys2Proof.Machine

/-- Settles O10: command words, words of the other registers, and the rows that are no host word. -/
theorem commandWordAtThePort : Obligations.CommandWordAtThePort := by
  refine ⟨fun u s i code row => ?_, fun w s unlisted => ?_, fun s h n g c low code w i a row => ?_, fun s => ⟨_, rfl, ?_⟩,
    fun s => ⟨_, rfl, rfl⟩, fun s h n g high tag status level f i row => ?_⟩
  · have command (c : CmdName) : ∃ t : State,
        Host.Outcome.next (ρ := Refusal) (φ := Fault) (commandWord c (actOf c) u s) = .next t
        ∧ t.port.cmd = u ++ codeOfCmd c ∧ t.port.result.extractLsb' 0 8 = codeOfCmd c ∧ t.port.result.getLsbD 11 = false
        ∧ { t.port with cmd := s.port.cmd, result := s.port.result }
          = { s.port with transaction := some ⟨false, 0x02⟩, sdo := none } := by
      obtain ⟨v, e⟩ := commandWord_at_port c u s
      refine ⟨_, rfl, ?_⟩
      rw [e]
      exact ⟨rfl, resultWord_code v _, resultWord_unused v _, rfl⟩
    simp only [List.mem_cons, List.not_mem_nil, or_false, Prod.mk.injEq] at row
    obtain ⟨rfl, rfl⟩ | ⟨rfl, rfl⟩ | ⟨rfl, rfl⟩ | ⟨rfl, rfl⟩ | ⟨rfl, rfl⟩ | ⟨rfl, rfl⟩ | ⟨rfl, rfl⟩ | ⟨rfl, rfl⟩ | ⟨rfl, rfl⟩
      | ⟨rfl, rfl⟩ | ⟨rfl, rfl⟩ | ⟨rfl, rfl⟩ | ⟨rfl, rfl⟩ | ⟨rfl, rfl⟩ := row
    · exact command .start
    · exact command .stop
    · exact command .abort
    · exact command .clear
    · exact command .headReset
    · exact command .softTrigger
    · exact command .apply
    · exact command .mark
    · exact command .discard
    · exact command .programWrite
    · exact command .programRead
    · exact command .programClear
    · exact command .tbLoad
    · exact command .softReset
  · exact congrArg (fun t => Host.Outcome.next (afterWrite cmdAddr t)) (takeWord_unlisted (cmdOfCode_none unlisted) s)
  · have row' {u : State} {b : Addr} (listed : nextAddr b = b + 1) (port : u.port = s.port) :
        ∃ t : State, Host.Outcome.next (ρ := Refusal) (φ := Fault) (afterWrite b u) = .next t
          ∧ t.port = { s.port with transaction := some ⟨false, b + 1⟩, sdo := none } :=
      ⟨_, rfl, afterWrite_port listed port⟩
    have period := rateHiAddr_eq g
    have control := rateCtlAddr_eq g
    simp only [List.mem_cons, List.not_mem_nil, or_false, Prod.mk.injEq, period, control] at row
    obtain ⟨rfl, rfl⟩ | ⟨rfl, rfl⟩ | ⟨rfl, rfl⟩ | ⟨rfl, rfl⟩ | ⟨rfl, rfl⟩ | ⟨rfl, rfl⟩ | ⟨rfl, rfl⟩ | ⟨rfl, rfl⟩ | ⟨rfl, rfl⟩
      | ⟨rfl, rfl⟩ | ⟨rfl, rfl⟩ | ⟨rfl, rfl⟩ | ⟨rfl, rfl⟩ | ⟨rfl, rfl⟩ | ⟨rfl, rfl⟩ | ⟨rfl, rfl⟩ | ⟨rfl, rfl⟩ | ⟨rfl, rfl⟩
      | ⟨rfl, rfl⟩ | ⟨rfl, rfl⟩ | ⟨rfl, rfl⟩ := row
    · exact row' (nextAddr_headDrop h) rfl
    · exact row' (by decide) (enableHead_port h s)
    · exact row' (by decide) (disableHead_port h s)
    · exact row' (nextAddr_lineCfg n) (writeLineCfg_port ..)
    · exact row' (nextAddr_lineCfg n) (writeLineCfg_port ..)
    · exact row' (nextAddr_lineCfg n) (writeLineCfg_port ..)
    · exact row' (nextAddr_rateHi g) rfl
    · exact row' (nextAddr_rateCtl g) rfl
    · exact row' (nextAddr_rateCtl g) rfl
    · exact row' (nextAddr_rateCtl g) rfl
    · exact row' (by decide) (setStrobe_port ..)
    · exact row' (by decide) (setStrobe_port ..)
    · exact row' (by decide) (setStrobe_port ..)
    · exact row' (by decide) (writeLinkCfg_port ..)
    · exact row' (by decide) (writeLinkCfg_port ..)
    · exact row' (by decide) rfl
    · exact row' (by decide) rfl
    · exact row' (by decide) (writeDivider_port ..)
    · exact row' (by decide) rfl
    · exact row' (by decide) rfl
    · exact row' (by decide) rfl
  · show { s.port with transaction := some ⟨true, 0x60⟩, sdo := some s.queue.word } = _
    rfl
  · have quiet {u : State} (port : u.port = s.port) :
        ∃ t : State, Host.Outcome.next (ρ := Refusal) (φ := Fault) u = .next t ∧ t.port = s.port := ⟨_, rfl, port⟩
    simp only [List.mem_cons, List.not_mem_nil, or_false] at row
    obtain rfl | rfl | rfl | rfl | rfl | rfl | rfl | rfl | rfl | rfl | rfl | rfl | rfl | rfl | rfl | rfl | rfl := row
    · exact quiet (sampleLine_port ..)
    · exact quiet (expireFilter_port ..)
    · exact quiet (expirePeriod_port ..)
    · exact quiet (expireDelay_port ..)
    · exact quiet (by split; exacts [endCondition_port .., rfl])
    · exact quiet (by split; exacts [endCondition_port .., rfl])
    · exact quiet (expireSpacing_port ..)
    · exact quiet (expireStrobeWait_port ..)
    · exact quiet (by split; exacts [enterPacing_port .., rfl])
    · exact quiet (tryGrant_port s)
    · exact quiet rfl
    · exact quiet (by split; exacts [rfl, takeComplete_port ..])
    · exact quiet (receiveFrame_port ..)
    · exact quiet (by split <;> rfl)
    · exact quiet (expireReadout_port s)
    · exact quiet rfl
    · exact quiet rfl

end Sys2Proof.Proofs
end

section
/-! PROOFS. The register window's writes: what a word does at each address, and the rows it stands for (Sections 11.1
to 11.3). -/

namespace Sys2Proof.Machine

variable {s : State}

/-! ## A word of a transaction -/

theorem exec_registerWrite {t : Transaction} (opened : s.port.transaction = some t) (w : Word) :
    exec (.registerWrite w) s = .next (transferWord t w s) := by
  show execRegisterWrite w s = _
  rw [execRegisterWrite, opened]

theorem exec_registerWrite_none (closed : s.port.transaction = none) (w : Word) :
    exec (.registerWrite w) s = .next s := by
  show execRegisterWrite w s = _
  rw [execRegisterWrite, closed]

/-- A word written is what the register does, and the transaction moves on. -/
theorem exec_written {a : Addr} (opened : s.port.transaction = some ⟨false, a⟩) (w : Word) :
    exec (.registerWrite w) s = .next (afterWrite a (writeRegister a w s)) := exec_registerWrite opened w

theorem exec_read {a : Addr} (opened : s.port.transaction = some ⟨true, a⟩) (w : Word) :
    exec (.registerWrite w) s = .next (afterRead a (regRead s a) (readEffect a s)) := exec_registerWrite opened w

theorem afterWrite_put_back {a : Addr} {t : State} {p : HostPort} (e : t.port = p) :
    { afterWrite a t with port := p } = t := by
  subst e
  rfl

theorem nextAddr_eq : ∀ a : Addr, nextAddr a = if a = 0x02 ∨ a = 0x21 ∨ a = 0x60 then a else a + 1 := by
  decide

/-! ## Addresses without an effect (R176) -/

/-- An address that is read-only or not listed ignores a word. -/
theorem writeRegister_ignored {a : Addr} (ignored : a ∈ [0x03#7, 0x28#7, 0x29#7, 0x2A#7, 0x2B#7, 0x30#7, 0x31#7, 0x32#7,
      0x33#7, 0x40#7, 0x51#7, 0x59#7, 0x60#7, 0x61#7, 0x62#7, 0x63#7, 0x68#7, 0x69#7]
    ∨ (0x04#7 ≤ a ∧ a ≤ 0x0F#7) ∨ (0x22#7 ≤ a ∧ a ≤ 0x27#7) ∨ (0x35#7 ≤ a ∧ a ≤ 0x37#7)
    ∨ (0x41#7 ≤ a ∧ a ≤ 0x43#7) ∨ a = 0x47#7 ∨ (0x4B#7 ≤ a ∧ a ≤ 0x4F#7) ∨ (0x52#7 ≤ a ∧ a ≤ 0x57#7)
    ∨ (0x5B#7 ≤ a ∧ a ≤ 0x5F#7) ∨ (0x65#7 ≤ a ∧ a ≤ 0x67#7) ∨ (0x6B#7 ≤ a ∧ a ≤ 0x6F#7) ∨ 0x73#7 ≤ a)
    (w : Word) (s : State) :
    writeRegister a w s = s ∧ nextAddr a = if a = 0x60 then a else a + 1 := by
  have bound := a.isLt
  simp only [List.mem_cons, List.not_mem_nil, or_false, ← BitVec.toNat_inj, BitVec.le_def, BitVec.toNat_ofNat] at ignored
  constructor
  · rw [writeRegister]
    iterate 19 rw [if_neg (by omega)]
  · have cmd : a ≠ 0x02 := fun e => by have e : a.toNat = 0x02 := congrArg BitVec.toNat e; omega
    have ring : a ≠ 0x21 := fun e => by have e : a.toNat = 0x21 := congrArg BitVec.toNat e; omega
    simp only [nextAddr_eq, cmd, ring, false_or]

/-! ## Plain stores and plain reads -/

theorem writeRegister_buffer (i : Fin 16) (w : Word) (s : State) :
    writeRegister (0x10#7 + BitVec.ofNat 7 i.val) w s = writeBuffer i w s := by
  fin_cases i <;> rfl

theorem nextAddr_buffer : ∀ i : Fin 16, nextAddr (0x10#7 + BitVec.ofNat 7 i.val) = 0x10#7 + BitVec.ofNat 7 i.val + 1 := by
  decide

theorem writeRegister_rateLo (g : RateIx) (w : Word) (s : State) :
    writeRegister (0x44#7 + 4#7 * BitVec.ofNat 7 g.val) w s = writeRateLo g w s := by
  fin_cases g <;> rfl

theorem nextAddr_rateLo : ∀ g : RateIx,
    nextAddr (0x44#7 + 4#7 * BitVec.ofNat 7 g.val) = 0x44#7 + 4#7 * BitVec.ofNat 7 g.val + 1 := by
  decide

theorem RingSel.ofWord_eq (w : Word) : RingSel.ofWord w
    = ⟨(w.extractLsb' 0 2).toFin, w.getLsbD 2, Fin.ofNat 33 (min (w.extractLsb' 8 6).toNat 32)⟩ := by
  have pos : (⟨min (w.extractLsb' 8 6).toNat 32, by omega⟩ : Fin 33) = Fin.ofNat 33 (min (w.extractLsb' 8 6).toNat 32) :=
    Fin.ext (Nat.mod_eq_of_lt (by omega)).symm
  rw [RingSel.ofWord, pos]

theorem readEffect_of_plain {a : Addr} (plain : a ∉ [0x02#7, 0x21#7, 0x60#7, 0x68#7]) (s : State) :
    readEffect a s = s ∧ nextAddr a = a + 1 := by
  simp only [List.mem_cons, List.not_mem_nil, or_false, not_or] at plain
  obtain ⟨cmd, ring, queue, time⟩ := plain
  refine ⟨readEffect_plain s time ring queue, ?_⟩
  rw [nextAddr_eq, if_neg]
  rintro (e | e | e)
  exacts [cmd e, ring e, queue e]

/-! ## Words that a row stands for (Sections 11.2 and 11.3) -/

theorem cmdOfCode_codeOfCmd (c : CmdName) : cmdOfCode (codeOfCmd c) = some c := by
  cases c <;> decide

/-- A CMD word that carries a listed code. -/
theorem takeWord_command (c : CmdName) (u : Byte) (s : State) :
    takeWord (u ++ codeOfCmd c) s = takeWith (actOf c) u (codeOfCmd c) s := by
  have lo : (u ++ codeOfCmd c).extractLsb' 0 8 = codeOfCmd c := BitVec.extractLsb'_append_eq_right
  have hi : (u ++ codeOfCmd c).extractLsb' 8 8 = u := BitVec.extractLsb'_append_eq_left
  have act : actOfCode (codeOfCmd c) = actOf c := by
    funext s
    rw [actOfCode, cmdOfCode_codeOfCmd]
  rw [takeWord, lo, hi, act]

theorem writeRegister_headDrop (h : HeadIx) (w : Word) (s : State) :
    writeRegister (0x2C#7 + BitVec.ofNat 7 h.val) w s = clearDrops h s := by
  fin_cases h <;> rfl

theorem writeRegister_lineCfg (n : LineIx) (w : Word) (s : State) :
    writeRegister (lineCfgAddr n) w s = writeLineCfg n (w.getLsbD 15) (w.getLsbD 8) (w.extractLsb' 0 8) s := by
  fin_cases n <;> rfl

theorem writeRegister_rateHi (g : RateIx) (w : Word) (s : State) :
    writeRegister (rateLoAddr g + 1) w s = writeRateHi g (w.extractLsb' 0 8) s := by
  fin_cases g <;> rfl

theorem writeRegister_rateCtl (g : RateIx) (w : Word) (s : State) :
    writeRegister (rateLoAddr g + 2) w s = writeRateCtl g (w.getLsbD 15) (w.extractLsb' 0 8) s := by
  fin_cases g <;> rfl

/-! ## HEAD_EN words of one mark (R36) -/

theorem setHeadEnable_same {h : HeadIx} {on : Bool} (same : (s.head h).enabled = on) : setHeadEnable h on s = s := by
  subst same
  simp only [setHeadEnable, enableHead, disableHead]
  split
  · rfl
  · rfl

theorem allHeads_filter_eq : ∀ h : HeadIx, allHeads.filter (fun k => decide (k = h)) = [h] := by decide

theorem writeHeadEn_one {w : Word} {h : HeadIx} (others : ∀ k : HeadIx, k ≠ h → w.getLsbD k.val = (s.head k).enabled) :
    writeHeadEn w s = setHeadEnable h (w.getLsbD h.val) s := by
  have marks (changed : Bool) (e : ((s.head h).enabled != w.getLsbD h.val) = changed) :
      (allHeads.filter fun k => (s.head k).enabled != w.getLsbD k.val)
        = allHeads.filter fun k => decide (k = h) && changed := by
    refine List.filter_congr fun k _ => ?_
    by_cases hk : k = h
    · rw [hk, e, decide_eq_true rfl, Bool.true_and]
    · rw [others k hk, decide_eq_false hk, bne_self_eq_false, Bool.false_and]
  by_cases same : (s.head h).enabled = w.getLsbD h.val
  · have none := marks false (by rw [same, bne_self_eq_false])
    simp only [Bool.and_false, List.filter_false] at none
    rw [setHeadEnable_same same]
    simp only [writeHeadEn, none]
    rfl
  · have one := marks true (bne_iff_ne.2 same)
    simp only [Bool.and_true, allHeads_filter_eq] at one
    simp only [writeHeadEn, one]
    rfl

theorem writeHeadEn_port (w : Word) (s : State) : (writeHeadEn w s).port = s.port := (writeHeadEn_moved s w).port

/-! ## STROBE_CFG words of one channel (R108) -/

theorem setStrobe_unchanged {n : ChanIx} {enable low : Bool} (same : (s.chan n).enabled = enable)
    (level : (s.chan n).activeLow = low) : setStrobe n enable low s = s := by
  subst level
  exact (setStrobe_same enable _ same).trans (setChan_chan s n)

theorem disableStrobe_chan_ne {n k : ChanIx} (hk : k ≠ n) (s : State) : (disableStrobe n s).chan k = s.chan k := by
  have fold (l : List HeadIx) (s : State) : (l.foldl (fun a w => startExposure w false a) s).chan k = s.chan k := by
    induction l generalizing s with
    | nil => rfl
    | cons w ws ih =>
      obtain ⟨hd, e⟩ := startExposure_frame s w false
      rw [List.foldl_cons, ih, e, chan_setHead]
  simp only [disableStrobe]
  rw [fold]
  split
  · exact (chan_setHead ..).trans (chan_setChan_ne s hk _)
  · exact chan_setChan_ne s hk _

theorem setStrobe_chan_ne {n k : ChanIx} (hk : k ≠ n) (enable low : Bool) (s : State) :
    (setStrobe n enable low s).chan k = s.chan k := by
  by_cases same : (s.chan n).enabled = enable
  · rw [setStrobe_same enable low same, chan_setChan_ne s hk]
  cases enable with
  | true => rw [setStrobe_on low (by simpa using same), chan_setChan_ne s hk]
  | false => rw [setStrobe_off low (by simpa using same), disableStrobe_chan_ne hk, chan_setChan_ne s hk]

/-- The settings that a word has for channels that it leaves as they are. -/
theorem strobes_unchanged (w : Word) {l : List ChanIx}
    (kept : ∀ k ∈ l, w.getLsbD k.val = (s.chan k).enabled ∧ w.getLsbD (8 + k.val) = (s.chan k).activeLow) :
    l.foldl (fun s n => setStrobe n (w.getLsbD n.val) (w.getLsbD (8 + n.val)) s) s = s := by
  induction l with
  | nil => rfl
  | cons k l ih =>
    obtain ⟨⟨enabled, low⟩, rest⟩ := List.forall_mem_cons.1 kept
    rw [List.foldl_cons, setStrobe_unchanged enabled.symm low.symm]
    exact ih rest

theorem writeStrobeCfg_one {w : Word} {n : ChanIx} (others : ∀ k : ChanIx, k ≠ n →
      w.getLsbD k.val = (s.chan k).enabled ∧ w.getLsbD (8 + k.val) = (s.chan k).activeLow) :
    writeStrobeCfg w s = setStrobe n (w.getLsbD n.val) (w.getLsbD (8 + n.val)) s := by
  have all : ∀ n : ChanIx, n ∈ allChans := by decide
  obtain ⟨pre, post, e⟩ := List.append_of_mem (all n)
  have nodup : (pre ++ n :: post).Nodup := by rw [← e]; decide
  have before : ∀ k ∈ pre, k ≠ n := fun k hk same =>
    List.nodup_append.1 nodup |>.2.2 k hk n (List.mem_cons_self ..) same
  have after : ∀ k ∈ post, k ≠ n := fun k hk same =>
    (List.nodup_cons.1 (List.nodup_append.1 nodup).2.1).1 (same ▸ hk)
  rw [writeStrobeCfg, e, List.foldl_append, strobes_unchanged w fun k hk => others k (before k hk), List.foldl_cons]
  refine strobes_unchanged w fun k hk => ?_
  rw [setStrobe_chan_ne (after k hk)]
  exact others k (after k hk)

theorem writeStrobeCfg_eq (w : Word) (s : State) : writeStrobeCfg w s
    = setStrobe 3 (w.getLsbD 3) (w.getLsbD 11) (setStrobe 2 (w.getLsbD 2) (w.getLsbD 10)
      (setStrobe 1 (w.getLsbD 1) (w.getLsbD 9) (setStrobe 0 (w.getLsbD 0) (w.getLsbD 8) s))) := by
  rw [writeStrobeCfg, allChans, List.foldl_cons, List.foldl_cons, List.foldl_cons, List.foldl_cons, List.foldl_nil]
  rfl

theorem writeStrobeCfg_port (w : Word) (s : State) : (writeStrobeCfg w s).port = s.port := by
  have fold (l : List ChanIx) (s : State) :
      (l.foldl (fun s n => setStrobe n (w.getLsbD n.val) (w.getLsbD (8 + n.val)) s) s).port = s.port := by
    induction l generalizing s with
    | nil => rfl
    | cons n l ih => rw [List.foldl_cons, ih, setStrobe_port]
  exact fold allChans s

end Sys2Proof.Machine

namespace Sys2Proof.Proofs

open Sys2Proof.Machine

/-- Settles O8: the stores, the addresses that ignore a word, and plain reads. -/
theorem registerWriteStores : Obligations.RegisterWriteStores := by
  refine fun w s => ⟨fun a opened => ?_, fun a opened plain => ?_, fun opened => ?_,
    fun closed => exec_registerWrite_none closed w⟩
  · rw [exec_written opened w]
    refine ⟨?_, ?_, ?_, ?_, ?_, fun ignored => ?_⟩
    · rintro rfl
      rfl
    · rintro rfl
      rfl
    · rintro i rfl
      rw [writeRegister_buffer, afterWrite, nextAddr_buffer]
      rfl
    · rintro rfl
      rw [← RingSel.ofWord_eq]
      rfl
    · rintro g rfl
      rw [writeRegister_rateLo, afterWrite, nextAddr_rateLo]
      rfl
    · obtain ⟨same, next⟩ := writeRegister_ignored ignored w s
      rw [same, afterWrite, next]
  · obtain ⟨same, next⟩ := readEffect_of_plain plain s
    rw [exec_read opened w, same, afterRead, next]
  · rw [exec_read opened w]
    show Host.Outcome.next { s with port := { s.port with transaction := some ⟨true, 0x02⟩, sdo := some s.port.cmd } } = _
    rw [← opened]

/-- Settles O9: a word of a transaction, address by address. -/
theorem registerWriteActsAsTheRow : Obligations.RegisterWriteActsAsTheRow := by
  refine ⟨fun s w => ⟨fun opened => exec_read opened w, fun opened => exec_read opened w, fun opened => exec_read opened w⟩,
    fun s a opened u w => ?_⟩
  have written (w : Word) := exec_written opened w
  refine ⟨?_, ?_, ?_, ?_, ?_, ?_, ?_, ?_, ?_, ?_, ?_, ?_, ?_, ?_, ?_, ?_, ?_⟩
  · rintro rfl
    have command (c : CmdName) :
        exec (.registerWrite (u ++ codeOfCmd c)) s = .next (commandWord c (actOf c) u s) :=
      (written _).trans (congrArg (fun t => Host.Outcome.next (afterWrite cmdAddr t)) (takeWord_command c u s))
    exact ⟨command .start, command .stop, command .abort, command .clear, command .headReset, command .softTrigger,
      command .apply, command .mark, command .discard, command .programWrite, command .programRead, command .programClear,
      command .tbLoad, command .softReset, written w⟩
  · rintro rfl
    exact written w
  · rintro h rfl
    rw [written, writeRegister_headDrop]
    rfl
  · rintro h rfl others
    refine (written w).trans ?_
    show Host.Outcome.next (afterWrite headEnAddr (writeHeadEn w s)) = _
    rw [writeHeadEn_one others]
    cases w.getLsbD h.val <;> rfl
  · rintro rfl
    obtain ⟨order, k, perm, e⟩ := writeHeadEn_spec s w
    have marks : exec (.registerWrite w) s = .next (afterWrite headEnAddr (writeHeadEn w s)) := written w
    exact ⟨_, order, k, marks, perm, afterWrite_port (by decide) (writeHeadEn_port w s),
      (afterWrite_put_back (writeHeadEn_port w s)).trans e⟩
  · rintro n rfl
    refine (written w).trans ?_
    rw [show 0x38#7 + BitVec.ofNat 7 n.val = lineCfgAddr n from rfl, writeRegister_lineCfg]
    cases w.getLsbD 15 <;> rfl
  · rintro g rfl
    refine (written w).trans ?_
    rw [rateHiAddr_eq, writeRegister_rateHi]
    rfl
  · rintro g rfl
    refine (written w).trans ?_
    rw [rateCtlAddr_eq, writeRegister_rateCtl]
    cases w.getLsbD 15 <;> rfl
  · rintro n rfl others
    have one : exec (.registerWrite w) s
        = .next (afterWrite strobeCfgAddr (setStrobe n (w.getLsbD n.val) (w.getLsbD (8 + n.val)) s)) := by
      rw [← writeStrobeCfg_one others]
      exact written w
    refine ⟨fun level => ?_, fun enable => ?_⟩
    · rw [one, level]
      cases w.getLsbD n.val <;> rfl
    · rw [one, enable]
      rfl
  · rintro rfl
    have e : exec (.registerWrite w) s = .next (afterWrite strobeCfgAddr (writeStrobeCfg w s)) := written w
    refine ⟨_, e, afterWrite_port (by decide) (writeStrobeCfg_port w s), ?_⟩
    rw [← writeStrobeCfg_eq]
    exact afterWrite_put_back (writeStrobeCfg_port w s)
  · rintro rfl
    refine (written w).trans ?_
    show Host.Outcome.next (afterWrite linkCfgAddr (writeLinkCfg (w.getLsbD 0) s)) = _
    cases w.getLsbD 0 <;> rfl
  all_goals
    rintro rfl
    exact written w

end Sys2Proof.Proofs
end

section
/-! PROOFS. What every register shows of the state (Section 11.2). -/

namespace Sys2Proof.Machine

variable {s : State}

/-! ## Mark words -/

/-- A bit of a mark word: some mark of the list stands there. -/
theorem foldl_marks_getLsbD {n w : Nat} (p : Fin n → Bool) (ixs : List (Fin n)) (acc : BitVec w) (i : Nat) :
    (ixs.foldl (fun acc k => if p k then acc ||| (1#w <<< k.val) else acc) acc).getLsbD i
      = (acc.getLsbD i || ixs.any fun k => p k && decide (i < w) && decide (k.val = i)) := by
  induction ixs generalizing acc with
  | nil => simp
  | cons k ks ih =>
    rw [List.foldl_cons, ih, List.any_cons, ← Bool.or_assoc]
    congr 1
    cases p k with
    | false => simp
    | true =>
      simp only [if_true, Bool.true_and, BitVec.getLsbD_or, BitVec.getLsbD_shiftLeft, BitVec.getLsbD_one]
      congr 1
      rw [Bool.eq_iff_iff]
      simp
      omega

theorem markWord_getLsbD {n w : Nat} (p : Fin n → Bool) (ixs : List (Fin n)) (i : Nat) :
    (markWord w ixs p).getLsbD i = ixs.any fun k => p k && decide (i < w) && decide (k.val = i) := by
  rw [markWord, foldl_marks_getLsbD, show (0 : BitVec w).getLsbD i = false from BitVec.getLsbD_zero, Bool.false_or]

/-- The bit of a listed mark is the mark. -/
theorem markWord_at {n w : Nat} (p : Fin n → Bool) {ixs : List (Fin n)} {k : Fin n} (listed : k ∈ ixs) (fits : k.val < w) :
    (markWord w ixs p).getLsbD k.val = p k := by
  rw [markWord_getLsbD, Bool.eq_iff_iff, List.any_eq_true]
  simp only [Bool.and_eq_true, decide_eq_true_eq]
  exact ⟨fun ⟨j, _, ⟨set, _⟩, same⟩ => Fin.ext same ▸ set, fun set => ⟨k, listed, ⟨set, fits⟩, rfl⟩⟩

/-- The bits above the marks are zero. -/
theorem markWord_above {n w : Nat} (p : Fin n → Bool) (ixs : List (Fin n)) (len : Nat) :
    (markWord w ixs p).extractLsb' n len = 0 := by
  refine BitVec.eq_of_getLsbD_eq fun i hi => ?_
  rw [BitVec.getLsbD_extractLsb', markWord_getLsbD, BitVec.ofNat_eq_ofNat, BitVec.getLsbD_zero]
  have none : (ixs.any fun k => p k && decide (n + i < w) && decide (k.val = n + i)) = false := by
    rw [List.any_eq_false]
    intro k _ set
    simp only [Bool.and_eq_true, decide_eq_true_eq] at set
    omega
  rw [none, Bool.and_false]

/-! ## HEAD_STATn (Table 11.3) -/

section HeadStatus

variable (hd : Head)

theorem statWord_state : hd.statWord.extractLsb' 0 4 = hd.state.code := BitVec.extractLsb'_append_eq_right

theorem statWord_slot : hd.statWord.extractLsb' 4 2 = hd.slot.code :=
  (BitVec.extractLsb'_append_eq_of_le (by decide)).trans BitVec.extractLsb'_append_eq_right

theorem statWord_program : hd.statWord.extractLsb' 8 5 = BitVec.ofNat 5 hd.ctx.progIndex.val := by
  refine (BitVec.extractLsb'_append_eq_of_le (xlo := hd.state.code) (by decide)).trans ?_
  refine (BitVec.extractLsb'_append_eq_of_le (xlo := hd.slot.code) (by decide)).trans ?_
  refine (BitVec.extractLsb'_append_eq_of_le (xlo := BitVec.ofBool hd.ring.withdrawn) (by decide)).trans ?_
  refine (BitVec.extractLsb'_append_eq_of_le (xlo := 0#1) (by decide)).trans ?_
  exact BitVec.extractLsb'_append_eq_right

theorem statWord_bits : hd.statWord.getLsbD 6 = hd.ring.withdrawn ∧ hd.statWord.getLsbD 7 = false
    ∧ hd.statWord.getLsbD 13 = hd.ctx.group.isSome ∧ hd.statWord.getLsbD 14 = hd.ctx.stopPending
    ∧ hd.statWord.getLsbD 15 = hd.ctx.latch.isSome := by
  simp only [Head.statWord, BitVec.getLsbD_append]
  simp

end HeadStatus

theorem ExpState.code_toNat (x : ExpState) : x.code.toNat = [ExpState.off, .idle, .armed, .pacing, .delay, .strobeWait,
    .exposing, .extending, .blocked, .draining, .fault].idxOf x := by
  cases x <;> decide

theorem State.expPin_iff (s : State) (h : HeadIx) :
    s.expPin h = true ↔ (s.head h).state = .exposing ∨ (s.head h).state = .extending := by
  show (s.head h).state.exposes = true ↔ _
  cases (s.head h).state <;> decide

/-! ## Lines, generators and channels (Table 11.1) -/

theorem Line.cfgWord_fields (l : Line) : l.cfgWord.getLsbD 15 = l.qualifier.isSome ∧ l.cfgWord.extractLsb' 9 6 = 0
    ∧ l.cfgWord.getLsbD 8 = l.activeLow ∧ l.cfgWord.extractLsb' 0 8 = l.filter := by
  refine ⟨?_, ?_, ?_, BitVec.extractLsb'_append_eq_right⟩
  · simp only [Line.cfgWord, BitVec.getLsbD_append]
    simp [Line.enabled]
  · refine (BitVec.extractLsb'_append_eq_of_le (xlo := l.filter) (by decide)).trans ?_
    refine (BitVec.extractLsb'_append_eq_of_le (xlo := BitVec.ofBool l.activeLow) (by decide)).trans ?_
    exact BitVec.extractLsb'_append_eq_right
  · simp only [Line.cfgWord, BitVec.getLsbD_append]
    simp

theorem Line.activeMark_iff (l : Line) :
    l.activeMark = true ↔ ∃ q : Qualifier, l.qualifier = some q ∧ q.high ≠ l.activeLow := by
  simp only [Line.activeMark]
  split
  · rename_i q e
    rw [e]
    simp [Line.isActive]
  · rename_i e
    simp [e]

theorem Line.pendingMark_iff (l : Line) :
    l.pendingMark = true ↔ ∃ q : Qualifier, l.qualifier = some q ∧ q.candidate ≠ none := by
  simp only [Line.pendingMark]
  split
  · rename_i q e
    rw [e]
    simp [Option.isSome_iff_ne_none]
  · rename_i e
    simp [e]

theorem RateGen.ctlWord_fields (g : RateGen) : g.ctlWord.getLsbD 15 = g.run.isSome ∧ g.ctlWord.extractLsb' 8 7 = 0
    ∧ g.ctlWord.extractLsb' 0 8 = g.decimation := by
  refine ⟨?_, ?_, BitVec.extractLsb'_append_eq_right⟩
  · simp only [RateGen.ctlWord, BitVec.getLsbD_append]
    simp
  · exact (BitVec.extractLsb'_append_eq_of_le (xlo := g.decimation) (by decide)).trans BitVec.extractLsb'_append_eq_right

theorem Channel.statBits_fields (c : Channel) : c.statBits.getLsbD 3 = !c.waiters.isEmpty
    ∧ c.statBits.getLsbD 2 = c.holder.isSome ∧ (c.statBits.extractLsb' 0 2).toNat = (c.holder.getD 0).val := by
  have bits : ∀ (a b : Bool) (x : BitVec 2), (BitVec.ofBool a ++ BitVec.ofBool b ++ x).getLsbD 3 = a
      ∧ (BitVec.ofBool a ++ BitVec.ofBool b ++ x).getLsbD 2 = b := by decide
  refine ⟨(bits _ _ _).1, (bits _ _ _).2, ?_⟩
  · refine (congrArg BitVec.toNat BitVec.extractLsb'_append_eq_right).trans ?_
    cases c.holder with
    | none => rfl
    | some h => exact Nat.mod_eq_of_lt h.isLt

/-- The four bits of a channel in STROBE_STAT. -/
theorem statBits_at (b0 b1 b2 b3 : BitVec 4) :
    (b3 ++ b2 ++ b1 ++ b0).extractLsb' 0 4 = b0 ∧ (b3 ++ b2 ++ b1 ++ b0).extractLsb' 4 4 = b1
    ∧ (b3 ++ b2 ++ b1 ++ b0).extractLsb' 8 4 = b2 ∧ (b3 ++ b2 ++ b1 ++ b0).extractLsb' 12 4 = b3 := by
  refine ⟨BitVec.extractLsb'_append_eq_right, ?_, ?_, ?_⟩
  · exact (BitVec.extractLsb'_append_eq_of_le (xlo := b0) (by decide)).trans BitVec.extractLsb'_append_eq_right
  · refine (BitVec.extractLsb'_append_eq_of_le (xlo := b0) (by decide)).trans ?_
    exact (BitVec.extractLsb'_append_eq_of_le (xlo := b1) (by decide)).trans BitVec.extractLsb'_append_eq_right
  · refine (BitVec.extractLsb'_append_eq_of_le (xlo := b0) (by decide)).trans ?_
    refine (BitVec.extractLsb'_append_eq_of_le (xlo := b1) (by decide)).trans ?_
    exact BitVec.extractLsb'_append_eq_left

/-! ## The arbiter, RING_SEL and the interrupt registers -/

theorem ofBool_word_toNat (b : Bool) : (0#15 ++ BitVec.ofBool b : Word).toNat = if b then 1 else 0 := by
  cases b <;> rfl

theorem Arbiter.statWord_fields (a : Arbiter) : a.statWord.getLsbD 15 = decide (a.port ≠ .idle)
    ∧ (a.statWord.extractLsb' 13 2).toNat = (a.port.head?.getD 0).val
    ∧ (a.queue.length < 8 → (a.statWord.extractLsb' 10 3).toNat = a.queue.length)
    ∧ (a.statWord.extractLsb' 8 2).toNat = (a.queue.headD 0).val
    ∧ a.statWord.extractLsb' 0 8 = (match a.port with
      | .busy _ tag _ => tag
      | .idle => a.tagCounter) := by
  have head (h : HeadIx) : (BitVec.ofNat 2 h.val).toNat = h.val := Nat.mod_eq_of_lt h.isLt
  have fields (busy : BitVec 1) (active front : HeadIx) (tag : Byte) :
      let w : Word := busy ++ BitVec.ofNat 2 active.val ++ BitVec.ofNat 3 a.queue.length ++ BitVec.ofNat 2 front.val ++ tag
      w.getLsbD 15 = busy.getLsbD 0 ∧ (w.extractLsb' 13 2).toNat = active.val
      ∧ (a.queue.length < 8 → (w.extractLsb' 10 3).toNat = a.queue.length)
      ∧ (w.extractLsb' 8 2).toNat = front.val ∧ w.extractLsb' 0 8 = tag := by
    refine ⟨?_, ?_, fun short => ?_, ?_, BitVec.extractLsb'_append_eq_right⟩
    · simp only [BitVec.getLsbD_append]
      simp
    · rw [BitVec.extractLsb'_append_eq_of_le (by decide), BitVec.extractLsb'_append_eq_of_le (by decide),
        BitVec.extractLsb'_append_eq_of_le (by decide)]
      exact (congrArg BitVec.toNat BitVec.extractLsb'_append_eq_right).trans (head active)
    · rw [BitVec.extractLsb'_append_eq_of_le (by decide), BitVec.extractLsb'_append_eq_of_le (by decide)]
      exact (congrArg BitVec.toNat BitVec.extractLsb'_append_eq_right).trans (Nat.mod_eq_of_lt short)
    · rw [BitVec.extractLsb'_append_eq_of_le (by decide)]
      exact (congrArg BitVec.toNat BitVec.extractLsb'_append_eq_right).trans (head front)
  cases port : a.port with
  | idle =>
    have e : a.statWord = 0#1 ++ BitVec.ofNat 2 (0 : HeadIx).val ++ BitVec.ofNat 3 a.queue.length
        ++ BitVec.ofNat 2 (a.queue.headD 0).val ++ a.tagCounter := by
      simp only [Arbiter.statWord, port]
      cases a.queue <;> rfl
    rw [e]
    exact fields 0#1 0 (a.queue.headD 0) a.tagCounter
  | busy h tag n =>
    have e : a.statWord = 1#1 ++ BitVec.ofNat 2 h.val ++ BitVec.ofNat 3 a.queue.length
        ++ BitVec.ofNat 2 (a.queue.headD 0).val ++ tag := by
      simp only [Arbiter.statWord, port]
      cases a.queue <;> rfl
    rw [e]
    exact fields 1#1 h (a.queue.headD 0) tag

theorem RingSel.word_fields (r : RingSel) : (r.word.extractLsb' 0 2).toNat = r.head.val ∧ r.word.getLsbD 2 = r.live
    ∧ r.word.extractLsb' 3 5 = 0 ∧ (r.word.extractLsb' 8 6).toNat = r.pos.val ∧ r.word.extractLsb' 14 2 = 0 := by
  have upper (len start : Nat) (low : 3 ≤ start) : r.word.extractLsb' start len
      = (0#2 ++ BitVec.ofNat 6 r.pos.val ++ 0#5).extractLsb' (start - 3) len := by
    refine (BitVec.extractLsb'_append_eq_of_le (xlo := BitVec.ofNat 2 r.head.val) (by omega)).trans ?_
    exact BitVec.extractLsb'_append_eq_of_le (xlo := BitVec.ofBool r.live) (by omega)
  refine ⟨?_, ?_, ?_, ?_, ?_⟩
  · exact (congrArg BitVec.toNat BitVec.extractLsb'_append_eq_right).trans (Nat.mod_eq_of_lt r.head.isLt)
  · simp only [RingSel.word, BitVec.getLsbD_append]
    simp
  · exact (upper 5 3 (by decide)).trans BitVec.extractLsb'_append_eq_right
  · rw [upper 6 8 (by decide), BitVec.extractLsb'_append_eq_of_le (by decide)]
    refine (congrArg BitVec.toNat BitVec.extractLsb'_append_eq_right).trans (Nat.mod_eq_of_lt ?_)
    exact lt_trans r.pos.isLt (by decide)
  · rw [upper 2 14 (by decide), BitVec.extractLsb'_append_eq_of_le (by decide)]
    exact BitVec.extractLsb'_append_eq_left

theorem State.causes_fields (s : State) : (s.causes.getLsbD 0 = true ↔ s.queue.threshold ≤ s.queue.occupancy)
    ∧ (∀ i : Fin 16, i.val ∈ [1, 2, 3, 4, 8, 9, 10, 11, 12, 13, 14, 15] → s.causes.getLsbD i.val = s.irq.flags.getLsbD i.val)
    ∧ s.causes.extractLsb' 5 3 = 0 := by
  refine ⟨?_, fun i sticky => ?_, BitVec.eq_of_getLsbD_eq fun i hi => ?_⟩
  · have e : s.causes.getLsbD 0 = s.queue.level := (causes_getLsbD s 0).trans (by simp)
    rw [e]
    exact decide_eq_true_iff
  · have kept : ∀ i : Fin 16, i.val ∈ [1, 2, 3, 4, 8, 9, 10, 11, 12, 13, 14, 15] → i.val ∉ [0, 5, 6, 7] ∧ i.val ≠ 0 := by
      decide
    obtain ⟨listed, nonzero⟩ := kept i sticky
    rw [causes_getLsbD, decide_eq_true listed, decide_eq_false nonzero, Bool.false_and, Bool.or_false, Bool.and_true]
  · have none : ∀ i : Fin 3, 5 + i.val ∈ [0, 5, 6, 7] := by decide
    have e := causes_getLsbD s ⟨5 + i, by omega⟩
    rw [decide_eq_false (not_not_intro (none ⟨i, hi⟩)), decide_eq_false (by simp), Bool.false_and, Bool.and_false] at e
    rw [BitVec.getLsbD_extractLsb', e]
    simp

theorem RecordQueue.remain_start (q : RecordQueue) (start : q.readPos = 0) : q.remain = 0 := by
  rw [RecordQueue.remain]
  split
  · rfl
  · exact if_pos start

theorem RecordQueue.remain_inside (q : RecordQueue) {r : Record} {rs : List Record} (records : q.records = r :: rs)
    (inside : 0 < q.readPos) : q.remain = r.len - q.readPos := by
  rw [RecordQueue.remain, records]
  exact if_neg (by omega)

/-! ## The registers by address (Table 11.1) -/

theorem regRead_headStat (h : HeadIx) (s : State) :
    regRead s (0x28#7 + BitVec.ofNat 7 h.val) = (s.head h).statWord := by
  fin_cases h <;> rfl

theorem regRead_headDrop (h : HeadIx) (s : State) : regRead s (0x2C#7 + BitVec.ofNat 7 h.val) = (s.head h).drops := by
  fin_cases h <;> rfl

theorem regRead_headLost (h : HeadIx) (s : State) : regRead s (0x30#7 + BitVec.ofNat 7 h.val) = (s.head h).lost := by
  fin_cases h <;> rfl

theorem regRead_headEn (s : State) : regRead s 0x34 = markWord 16 allHeads fun h => (s.head h).enabled := rfl

theorem regRead_lineCfg (n : LineIx) (s : State) :
    regRead s (0x38#7 + BitVec.ofNat 7 n.val) = (s.line n).cfgWord := by
  fin_cases n <;> rfl

theorem regRead_lineState (s : State) : regRead s 0x40
    = markWord 8 allLines (fun n => (s.line n).pendingMark) ++ markWord 8 allLines (fun n => (s.line n).activeMark) := rfl

theorem regRead_rateLo (g : RateIx) (s : State) :
    regRead s (0x44#7 + 4#7 * BitVec.ofNat 7 g.val) = (s.rate g).periodLo := by
  fin_cases g <;> rfl

theorem regRead_rateHi (g : RateIx) (s : State) :
    regRead s (0x45#7 + 4#7 * BitVec.ofNat 7 g.val) = (s.rate g).periodHi.zeroExtend 16 := by
  fin_cases g <;> rfl

theorem regRead_rateCtl (g : RateIx) (s : State) :
    regRead s (0x46#7 + 4#7 * BitVec.ofNat 7 g.val) = (s.rate g).ctlWord := by
  fin_cases g <;> rfl

theorem regRead_strobeCfg (s : State) : regRead s 0x50
    = markWord 8 allChans (fun n => (s.chan n).activeLow) ++ markWord 8 allChans (fun n => (s.chan n).enabled) := rfl

theorem regRead_strobeStat (n : ChanIx) (s : State) :
    (regRead s 0x51).extractLsb' (4 * n.val) 4 = (s.chan n).statBits := by
  obtain ⟨b0, b1, b2, b3⟩ := statBits_at (s.chan 0).statBits (s.chan 1).statBits (s.chan 2).statBits (s.chan 3).statBits
  fin_cases n
  · exact b0
  · exact b1
  · exact b2
  · exact b3

theorem regRead_buffer (i : Fin 16) (s : State) :
    regRead s (0x10#7 + BitVec.ofNat 7 i.val) = s.buffer[i.val]'i.isLt := by
  fin_cases i <;> rfl

/-- Bit n of the lower byte and of the upper byte of two mark words. -/
theorem twoMarks_at {n : Nat} (upper lower : Fin n → Bool) {ixs : List (Fin n)} {k : Fin n} (listed : k ∈ ixs)
    (fits : k.val < 8) : (markWord 8 ixs upper ++ markWord 8 ixs lower).getLsbD k.val = lower k
      ∧ (markWord 8 ixs upper ++ markWord 8 ixs lower).getLsbD (8 + k.val) = upper k := by
  rw [BitVec.getLsbD_append, BitVec.getLsbD_append, if_pos fits, if_neg (by omega), Nat.add_sub_cancel_left]
  exact ⟨markWord_at lower listed fits, markWord_at upper listed fits⟩

/-! ## Addresses not listed (R176) -/

theorem regRead_unlisted {a : Addr} (unlisted : (0x04#7 ≤ a ∧ a ≤ 0x0F#7) ∨ (0x22#7 ≤ a ∧ a ≤ 0x27#7)
    ∨ (0x35#7 ≤ a ∧ a ≤ 0x37#7) ∨ (0x41#7 ≤ a ∧ a ≤ 0x43#7) ∨ a = 0x47#7 ∨ (0x4B#7 ≤ a ∧ a ≤ 0x4F#7)
    ∨ (0x52#7 ≤ a ∧ a ≤ 0x57#7) ∨ (0x5B#7 ≤ a ∧ a ≤ 0x5F#7) ∨ (0x65#7 ≤ a ∧ a ≤ 0x67#7)
    ∨ (0x6B#7 ≤ a ∧ a ≤ 0x6F#7) ∨ 0x73#7 ≤ a) : regRead s a = 0 := by
  have bound := a.isLt
  simp only [← BitVec.toNat_inj, BitVec.le_def, BitVec.toNat_ofNat] at unlisted
  rw [regRead]
  iterate 35 rw [if_neg (by omega)]

end Sys2Proof.Machine

namespace Sys2Proof.Proofs

open Sys2Proof.Machine

/-- Settles O7: each register's word by its address, then the fields of the word. -/
theorem statusRegistersShowTheState : Obligations.StatusRegistersShowTheState := by
  refine fun s => ⟨fun h => ?_, fun n => ?_, fun g => ?_, fun n => ?_, ?_, ?_, ?_, ?_, ?_, ?_, ?_, ?_, ?_, ?_, ?_, ?_, ?_,
    ?_, ?_, ?_, ?_, ?_, ?_, ?_, fun a => regRead_unlisted⟩
  · intro hd w
    have word : w = hd.statWord := regRead_headStat h s
    obtain ⟨withdrawn, unused, opened, stop, latch⟩ := statWord_bits hd
    have all : ∀ h : HeadIx, h ∈ allHeads := by decide
    rw [word, statWord_state, statWord_slot, statWord_program, regRead_headEn, ExpState.code_toNat]
    refine ⟨rfl, ?_, withdrawn, unused, Nat.mod_eq_of_lt hd.ctx.progIndex.isLt, opened, stop, latch, regRead_headDrop h s,
      regRead_headLost h s, markWord_at _ (all h) (by omega), markWord_above _ _ _, s.expPin_iff h⟩
    cases hd.slot <;> rfl
  · intro l w
    have word : w = l.cfgWord := regRead_lineCfg n s
    have all : ∀ n : LineIx, n ∈ allLines := by decide
    obtain ⟨enabled, unused, low, filter⟩ := l.cfgWord_fields
    obtain ⟨active, pending⟩ := twoMarks_at (fun n => (s.line n).pendingMark) (fun n => (s.line n).activeMark) (all n) n.isLt
    rw [word, regRead_lineState, active, pending]
    exact ⟨enabled, unused, low, filter, l.activeMark_iff, l.pendingMark_iff⟩
  · intro w
    have word : w = (s.rate g).ctlWord := regRead_rateCtl g s
    obtain ⟨runs, unused, code⟩ := (s.rate g).ctlWord_fields
    rw [word]
    exact ⟨runs, unused, code, regRead_rateLo g s, (regRead_rateHi g s).trans (zero_append (k := 8) _).symm⟩
  · intro c w
    have word : w = c.statBits := regRead_strobeStat n s
    have all : ∀ n : ChanIx, n ∈ allChans := by decide
    obtain ⟨enabled, low⟩ := twoMarks_at (fun n => (s.chan n).activeLow) (fun n => (s.chan n).enabled) (all n) (by omega)
    obtain ⟨waits, held, holder⟩ := c.statBits_fields
    rw [word, regRead_strobeCfg, enabled, low]
    exact ⟨rfl, rfl, waits, held, holder⟩
  · rw [regRead_strobeCfg, BitVec.extractLsb'_append_eq_of_add_le (by decide)]
    exact markWord_above _ _ _
  · rw [regRead_strobeCfg, BitVec.extractLsb'_append_eq_of_le (by decide)]
    exact markWord_above _ _ _
  · exact ofBool_word_toNat _
  · exact s.arb.statWord_fields
  · rfl
  · rfl
  · intro few
    refine ⟨Nat.mod_eq_of_lt (by omega), fun few => Nat.mod_eq_of_lt (by omega), fun start => ?_,
      fun r rs records inside => ?_⟩
    · exact congrArg (BitVec.ofNat 16) (s.queue.remain_start start)
    · have occupied : s.queue.occupancy = (r.len + (rs.map Record.len).sum) - s.queue.readPos := by
        rw [RecordQueue.occupancy, records, List.map_cons, List.sum_cons]
      refine (congrArg (fun n => (BitVec.ofNat 16 n).toNat) (s.queue.remain_inside records inside)).trans ?_
      exact Nat.mod_eq_of_lt (show r.len - s.queue.readPos < 2 ^ 16 by omega)
  · exact fun small => Nat.mod_eq_of_lt (by omega)
  · rfl
  · rfl
  · rfl
  · rfl
  · exact fun i => regRead_buffer i s
  · exact s.port.ringSel.word_fields
  · rfl
  · rfl
  · exact (zero_append (k := 8) s.tb.divCode).symm
  · exact s.causes_fields
  · rfl
  · exact ofBool_word_toNat _

end Sys2Proof.Proofs
end

section
/-! PROOFS. The resets: the power-on state and what SOFT_RESET leaves (Section 11.3). -/

namespace Sys2Proof.Machine

theorem head_reset (h : HeadIx) : State.reset.head h = Head.reset := Vector.getElem_replicate _

theorem chan_reset (n : ChanIx) : State.reset.chan n = ⟨false, false, none, []⟩ := Vector.getElem_replicate _

/-- The power-on state keeps every law of the blocks. -/
theorem reset_inv : State.reset.Inv := by
  refine ⟨reset_queue_wf, reset_lineLaw _, reset_clockLaw, fun h => ?_, fun h => ?_, reset_arbiterLaw, reset_strobeLaw,
    fun h => ?_⟩
  all_goals rw [head_reset]
  · exact reset_head_law.state
  · exact reset_ringLaw
  · exact reset_head_law.context

theorem regRead_reset : ∀ a : Addr, a ≠ 0x21 → regRead State.reset a = if a = 0x64 then 1 else 0 := by
  decide

end Sys2Proof.Machine

namespace Sys2Proof.Proofs

open Sys2Proof.Machine

/-- Settles O5: the power-on state as it stands, and SOFT_RESET block by block. -/
theorem resetCommands : Obligations.ResetCommands := by
  refine ⟨fun s => rfl, fun u s => ?_⟩
  have act : cmdSoftReset s = (.done, softReset s) := rfl
  obtain ⟨p, e, result⟩ := commandWord_frame act .softReset u
  refine ⟨_, congrArg Host.Outcome.next e, result, fun h => head_softReset s h, fun n => chan_softReset s n, fun n => ?_,
    fun g => rate_softReset s g, rfl, ?_, rfl, rfl, rfl⟩
  · refine (line_softReset s n).trans ?_
    simp only [Line.softReset]
    cases (s.line n).qualifier <;> rfl
  · show s.link.softReset s.arb.port = _
    cases s.arb.port <;> rfl

/-- Settles O4: block by block, and the laws from the earlier files' power-on lemmas. -/
theorem resetIsPowerOnState : Obligations.ResetIsPowerOnState := by
  refine ⟨fun n => Vector.getElem_replicate _, fun i => Vector.getElem_replicate _, fun n => Vector.getElem_replicate _,
    fun g => Vector.getElem_replicate _, fun h => ?_, chan_reset, rfl, rfl, rfl, rfl, rfl, rfl, rfl, regRead_reset,
    by decide, fun h => ?_, fun n => ?_, rfl, ?_, by decide⟩
  · rw [head_reset]
    intro hd
    have sets : ∀ i : SetIx, i ≠ 0 → Head.reset.ring.live.sets[i.val]'i.isLt = ⟨0, 0, 0⟩ := by decide
    exact ⟨rfl, rfl, rfl, rfl, rfl, rfl, rfl, rfl, rfl, rfl, rfl, rfl, sets, rfl, rfl, rfl⟩
  · show (State.reset.head h).state.exposes = false
    rw [head_reset]
    rfl
  · show ((State.reset.chan n).held != (State.reset.chan n).activeLow) = false
    rw [chan_reset]
    rfl
  · exact reset_inv

end Sys2Proof.Proofs
end

section
/-! PROOFS. The transmitter's law: the messages that wait are what the port admits (Sections 7.2 and 7.3). First what each
message passed does to the link's ends, then every act that passes one, then the step. -/

namespace Sys2Proof.Machine

variable {s t u : State} {h : HeadIx}

/-! ## What a port admits (R119) -/

theorem Port.admits_idle_iff (w : List Message) : Port.idle.admits w = true ↔ w = [] ∨ ∃ tag, w = [.cancel tag] := by
  match w with
  | [] => simp [Port.admits]
  | [.cancel tag] => simp [Port.admits]
  | [.start h tag gain] => simp [Port.admits]
  | _ :: _ :: _ => simp [Port.admits]

theorem Port.admits_busy_iff (k : HeadIx) (tag : Byte) (n : Nat) (w : List Message) :
    (Port.busy k tag n).admits w = true ↔ w = [] ∨ (∃ h gain, w = [.start h tag gain])
      ∨ ∃ other h gain, w = [.cancel other, .start h tag gain] := by
  match w with
  | [] => simp [Port.admits]
  | [.cancel other] => simp [Port.admits]
  | [.start h other gain] =>
    refine decide_eq_true_iff.trans ⟨fun e => .inr (.inl ⟨h, gain, by rw [e]⟩), ?_⟩
    rintro (e | ⟨_, _, e⟩ | ⟨_, _, _, e⟩) <;> cases e
    rfl
  | [.cancel first, .start h other gain] =>
    refine decide_eq_true_iff.trans ⟨fun e => .inr (.inr ⟨first, h, gain, by rw [e]⟩), ?_⟩
    rintro (e | ⟨_, _, e⟩ | ⟨_, _, _, e⟩) <;> cases e
    rfl
  | [.cancel _, .cancel _] => simp [Port.admits]
  | [.start _ _ _, _] => simp [Port.admits]
  | .cancel _ :: .start _ _ _ :: _ :: _ => simp [Port.admits]
  | .cancel _ :: .cancel _ :: _ :: _ => simp [Port.admits]
  | .start _ _ _ :: _ :: _ :: _ => simp [Port.admits]

/-- The link's ends follow a port: nothing waits at an idle transmitter, and what waits is what the port admits. -/
def LinkEnds.Follows (l : LinkEnds) (p : Port) : Prop :=
  (l.sending = none → l.waiting = []) ∧ p.admits l.waiting = true

namespace LinkEnds.Follows

variable {l : LinkEnds} {p : Port} {k : HeadIx} {tag : Byte} {n : Nat}

/-- A START that is passed on with the port becoming BUSY. -/
theorem start (law : l.Follows .idle) (h : HeadIx) (gain : BitVec 10) :
    (l.pass (.start h tag gain)).Follows (.busy k tag n) := by
  obtain ⟨silent, admitted⟩ := law
  rw [l.pass_start]
  split
  · rename_i none
    have empty := silent (Option.isNone_iff_eq_none.1 none)
    exact ⟨fun _ => empty, by rw [Port.admits_busy_iff]; exact .inl empty⟩
  · rename_i sends
    refine ⟨fun none => absurd (Option.isNone_iff_eq_none.2 none) sends, (Port.admits_busy_iff ..).2 ?_⟩
    obtain e | ⟨other, e⟩ := (Port.admits_idle_iff _).1 admitted
    · exact .inr (.inl ⟨h, gain, congrArg (· ++ _) e⟩)
    · exact .inr (.inr ⟨other, h, gain, congrArg (· ++ _) e⟩)

/-- A CANCEL of the readout in progress that is passed on with the port becoming IDLE. -/
theorem cancel (law : l.Follows (.busy k tag n)) : (l.pass (.cancel tag)).Follows .idle := by
  obtain ⟨silent, admitted⟩ := law
  have own (h : HeadIx) (gain : BitVec 10) : (Message.start h tag gain).starts tag = true := decide_eq_true rfl
  rw [l.pass_cancel]
  obtain e | ⟨h, gain, e⟩ | ⟨other, h, gain, e⟩ := (Port.admits_busy_iff ..).1 admitted
  · rw [if_neg (by rw [e]; exact Bool.false_ne_true)]
    split
    · exact ⟨fun _ => e, (Port.admits_idle_iff _).2 (.inl e)⟩
    · rename_i sends
      exact ⟨fun none => absurd (Option.isNone_iff_eq_none.2 none) sends,
        (Port.admits_idle_iff _).2 (.inr ⟨tag, congrArg (· ++ _) e⟩)⟩
  · have rest : (l.waiting.filter fun x => !x.starts tag) = [] := by simp only [e, List.filter, own, Bool.not_true]
    rw [if_pos (by rw [e, List.any_cons, own, Bool.true_or]), rest]
    exact ⟨fun _ => rfl, rfl⟩
  · have rest : (l.waiting.filter fun x => !x.starts tag) = [.cancel other] := by
      rw [e, List.filter_cons_of_pos rfl, List.filter_cons_of_neg (by rw [own]; exact Bool.false_ne_true), List.filter_nil]
    rw [if_pos (by rw [e, List.any_cons, List.any_cons, own, Bool.true_or, Bool.or_true]), rest]
    refine ⟨fun none => ?_, rfl⟩
    rw [silent none] at e
    cases e

/-- A readout that ends by its COMPLETE, its START sent before. -/
theorem completed (law : l.Follows (.busy k tag n)) (sent : ∀ h gain, .start h tag gain ∉ l.waiting) :
    l.Follows .idle := by
  obtain ⟨silent, admitted⟩ := law
  obtain e | ⟨h, gain, e⟩ | ⟨other, h, gain, e⟩ := (Port.admits_busy_iff ..).1 admitted
  · exact ⟨silent, (Port.admits_idle_iff _).2 (.inl e)⟩
  · exact absurd (by rw [e]; exact List.mem_cons_self ..) (sent h gain)
  · exact absurd (by rw [e]; exact List.mem_cons_of_mem _ (List.mem_cons_self ..)) (sent h gain)

/-- What waits behind the first message waiting is admitted too. -/
theorem admits_tail {m : Message} {ms : List Message} (admitted : p.admits (m :: ms) = true) : p.admits ms = true := by
  cases p with
  | idle =>
    obtain e | ⟨tag, e⟩ := (Port.admits_idle_iff _).1 admitted
    · cases e
    · cases e
      rfl
  | busy k tag n =>
    obtain e | ⟨h, gain, e⟩ | ⟨other, h, gain, e⟩ := (Port.admits_busy_iff ..).1 admitted
    · cases e
    · cases e
      rfl
    · cases e
      exact (Port.admits_busy_iff ..).2 (.inr (.inl ⟨h, gain, rfl⟩))

theorem frameSent (law : l.Follows p) : l.frameSent.Follows p := by
  obtain ⟨silent, admitted⟩ := law
  by_cases none : l.sending = none
  · rw [l.frameSent_silent none]
    exact ⟨silent, admitted⟩
  cases e : l.waiting with
  | nil =>
    rw [l.frameSent_nil none e]
    exact ⟨fun _ => e, admitted⟩
  | cons m ms =>
    rw [l.frameSent_cons none e]
    rw [e] at admitted
    exact ⟨fun silent => (by cases silent), admits_tail admitted⟩

/-- At most three messages stand at the transmitter. -/
theorem length_le (law : l.Follows p) : l.sending.toList.length + l.waiting.length ≤ 3 := by
  have sending : l.sending.toList.length ≤ 1 := by cases l.sending <;> simp
  have waiting : l.waiting.length ≤ 2 := by
    obtain ⟨-, admitted⟩ := law
    cases p with
    | idle =>
      obtain e | ⟨tag, e⟩ := (Port.admits_idle_iff _).1 admitted <;> rw [e] <;> simp
    | busy k tag n =>
      obtain e | ⟨h, gain, e⟩ | ⟨other, h, gain, e⟩ := (Port.admits_busy_iff ..).1 admitted <;> rw [e] <;> simp
  omega

theorem tick (law : l.Follows p) : l.Follows p.tick := by
  cases p with
  | idle => exact law
  | busy k tag n => exact ⟨law.1, (Port.admits_busy_iff ..).2 ((Port.admits_busy_iff ..).1 law.2)⟩

theorem softReset (law : l.Follows p) : (l.softReset p).Follows .idle := by
  cases p with
  | idle => exact law
  | busy k tag n => exact law.cancel

end LinkEnds.Follows

/-! ## Acts that leave the port and the link -/

/-- The port and the link's two ends are the same. -/
structure SameEnds (s t : State) : Prop where
  port : t.arb.port = s.arb.port
  link : t.link = s.link

namespace SameEnds

theorem refl (s : State) : SameEnds s s := ⟨rfl, rfl⟩

theorem trans (a : SameEnds s t) (b : SameEnds t u) : SameEnds s u := ⟨b.port.trans a.port, b.link.trans a.link⟩

theorem course (c : Course s t) : SameEnds s t := by
  refine Course.induction (R := SameEnds) .refl .trans (fun q => ?_) c
  cases q with
  | head | ends | cause | chans => exact ⟨rfl, rfl⟩
  | record h body =>
    obtain ⟨_, _, _, e⟩ := offer_frame _ h body
    rw [e]
    exact ⟨rfl, rfl⟩

theorem complete (h : HeadIx) (s : State) : SameEnds s (completeGroup h s) := by
  cases e : (s.head h).ctx.group with
  | none =>
    rw [completeGroup_none e]
    exact .refl s
  | some g =>
    rw [completeGroup_some e]
    exact .trans (t := s.joined h g) ⟨rfl, rfl⟩ (course (decideBurst_course _ h))

theorem ends (h : HeadIx) (overrun : Bool) (s : State) : SameEnds s (endCondition h overrun s) := by
  have ended : SameEnds s (endExposure h (s.setHead h ((s.head h).closing overrun))) :=
    .trans (t := s.setHead h ((s.head h).closing overrun)) ⟨rfl, rfl⟩ (course (endExposure_course _ h))
  obtain ⟨-, -, e⟩ | ⟨-, -, e⟩ | ⟨-, e⟩ := endCondition_cases h overrun s <;> rw [e]
  · exact ended.trans (complete h _)
  · exact ⟨rfl, rfl⟩
  · have armed := ended.trans (u := (endExposure h (s.setHead h ((s.head h).closing overrun))).modHead h
      Head.nextExposure) ⟨rfl, rfl⟩
    split
    · exact armed
    · exact armed.trans (course (enterPacing_course _ h))

theorem abort (h : HeadIx) (s : State) : SameEnds s (abortHead h s) := by
  have slot (s : State) : SameEnds s (abortSlot h s).2 := by
    simp only [abortSlot]
    split <;> exact ⟨rfl, rfl⟩
  simp only [abortHead]
  split
  · exact .refl s
  · exact .refl s
  · exact .refl s
  all_goals
    exact (course (teardown_course s h)).trans ((slot _).trans ((course (offer_course _ h _)).trans
      (course (abortState_course _ h _))))

theorem emptied (h : HeadIx) (s : State) : SameEnds s (slotEmptied h s) := by
  simp only [slotEmptied]
  split
  · exact ⟨rfl, rfl⟩
  · exact course (leaveBlocked_course s h)
  · exact (course (endExposure_course s h)).trans (complete h _)
  all_goals exact .refl s

theorem released (n : LineIx) (h : HeadIx) (s : State) : SameEnds s (receiveRelease n h s) := by
  simp only [receiveRelease]
  repeat' split
  · exact course (shortStart_course s h n)
  · exact course (shortStart_course s h n)
  · exact ends h false s
  all_goals exact .refl s

theorem asserts (src : Source) (time : Stamp) (heads : List HeadIx) (s : State) :
    SameEnds s (deliverAssert src time heads s) := by
  obtain ⟨order, n, -, e⟩ := deliverAssert_spec s src time heads
  rw [e]
  exact List.foldlRecOn (motive := fun t : State => SameEnds s t) order _ ⟨rfl, rfl⟩
    fun t a h _ => a.trans (course (receiveAssert_course t h src time))

end SameEnds

/-! ## Acts that pass messages -/

namespace State.TransmitterLaw

theorem follows (law : s.TransmitterLaw) : s.link.Follows s.arb.port := law

theorem of_ends (law : s.TransmitterLaw) (e : SameEnds s t) : t.TransmitterLaw := by
  have follows : t.link.Follows t.arb.port := by
    rw [e.port, e.link]
    exact law
  exact follows

theorem course (law : s.TransmitterLaw) (c : Course s t) : t.TransmitterLaw := law.of_ends (.course c)

theorem grant (law : s.TransmitterLaw) : (tryGrant s).TransmitterLaw := by
  obtain e | ⟨k, g, rest, -, idle, -, e⟩ := tryGrant_slot_frame s <;> rw [e]
  · exact law
  · have ends := law.follows
    rw [idle] at ends
    exact ends.start k _

theorem grantOrNot (law : s.TransmitterLaw) : (Machine.grantOrNot s).TransmitterLaw := by
  obtain ⟨-, e⟩ | ⟨-, e | e⟩ := grantOrNot_cases s <;> rw [e]
  · exact law
  · exact law
  · exact grant (s := { s with choices := s.choices + 1 }) law

theorem inTurns {act : HeadIx → State → State} (acts : ∀ h s, s.TransmitterLaw → (act h s).TransmitterLaw)
    (order : List HeadIx) (law : s.TransmitterLaw) : (inTurn act order s).TransmitterLaw :=
  inTurn_induction (P := State.TransmitterLaw) acts (fun _ a => a.grantOrNot) order s law

theorem cancelled (law : s.TransmitterLaw) (h : HeadIx) : (cancelReadout h s).TransmitterLaw := by
  simp only [cancelReadout]
  split
  · rename_i k tag n busy
    have ends := law.follows
    rw [busy] at ends
    split
    · exact ends.cancel
    · exact law
  · exact law

theorem reset (law : s.TransmitterLaw) (h : HeadIx) : (headReset h s).TransmitterLaw := by
  have torn := law.course (teardown_course s h)
  have slot : (resetSlot h (teardown h s)).TransmitterLaw := by
    simp only [resetSlot]
    split
    · exact torn
    · exact torn.of_ends ⟨rfl, rfl⟩
    · exact torn.cancelled h
  exact slot.of_ends ⟨rfl, rfl⟩

theorem enable (law : s.TransmitterLaw) (h : HeadIx) (on : Bool) : (setHeadEnable h on s).TransmitterLaw := by
  simp only [setHeadEnable, enableHead, disableHead]
  repeat' split
  · exact law
  · exact law.of_ends ⟨rfl, rfl⟩
  · exact (law.reset h).of_ends ⟨rfl, rfl⟩
  · exact law

theorem headEn (law : s.TransmitterLaw) (w : Word) : (writeHeadEn w s).TransmitterLaw := by
  obtain ⟨order, k, -, e⟩ := writeHeadEn_spec s w
  rw [e]
  exact inTurns (fun h _ a => a.enable h _) order (s := { s with choices := k }) law

theorem releases (law : s.TransmitterLaw) (n : LineIx) : (deliverRelease n s).TransmitterLaw := by
  obtain ⟨order, k, -, e⟩ := deliverRelease_spec s n
  rw [e]
  exact inTurns (fun h s a => a.of_ends (.released n h s)) order (s := { s with choices := k }) law

theorem notified (law : s.TransmitterLaw) (h : HeadIx) : (notifyEmptied h s).TransmitterLaw := by
  simp only [notifyEmptied]
  split
  · exact law.grantOrNot.of_ends (.emptied h _)
  · exact law.of_ends (.emptied h s)

/-- A COMPLETE while no START of its tag waits. -/
theorem takes (law : s.TransmitterLaw) {tag : Byte} (sent : ∀ h gain, .start h tag gain ∉ s.link.waiting)
    (status : Status) (level : Word) : (takeComplete tag status level s).TransmitterLaw := by
  have stray : (strayCompletion s).TransmitterLaw := law.of_ends ⟨rfl, rfl⟩
  simp only [takeComplete]
  split
  · exact stray
  · rename_i h active n busy
    split
    · rename_i same
      subst same
      have ends := law.follows
      rw [busy] at ends
      have freed {t : State} (e : SameEnds s t) : (freePort h t).TransmitterLaw := by
        have follows : t.link.Follows .idle := by
          rw [e.link]
          exact ends.completed sent
        exact follows
      have captured : (captureReadout h status level s).TransmitterLaw := by
        simp only [captureReadout]
        split
        · exact (freed (.course (offer_course s h _))).notified h
        · exact (freed (.refl s)).notified h
        · exact (freed (.refl s)).notified h
      split
      · exact captured
      · exact captured
      · exact (freed (.refl s)).course (headFault_course _ h _)
    · exact stray

theorem timeout (law : s.TransmitterLaw) : (expireReadout s).TransmitterLaw := by
  simp only [expireReadout]
  split
  · rename_i h tag busy
    have ends := law.follows
    rw [busy] at ends
    have freed : (freePort h (passMessage (.cancel tag) s)).TransmitterLaw := ends.cancel
    exact freed.course (headFault_course _ h _)
  · exact law
  · exact law

theorem ite {c : Prop} [Decidable c] (a : t.TransmitterLaw) (b : u.TransmitterLaw) :
    (if c then t else u).TransmitterLaw := by
  split
  · exact a
  · exact b

theorem lineRelease (law : s.TransmitterLaw) (n : LineIx) (l : Line) : (releaseIfActive n l s).TransmitterLaw := by
  simp only [releaseIfActive]
  repeat' split
  · exact law.releases n
  all_goals exact law

theorem lineCfg (law : s.TransmitterLaw) (n : LineIx) (enable low : Bool) (code : Byte) :
    (writeLineCfg n enable low code s).TransmitterLaw := by
  have set (l : Line) : (s.setLine n l).TransmitterLaw := law.of_ends ⟨rfl, rfl⟩
  simp only [writeLineCfg]
  repeat' split
  · exact set _
  · exact set _
  · exact (set _).lineRelease n _
  · exact set _
  · exact (set _).lineRelease n _

theorem qualifies (law : s.TransmitterLaw) (n : LineIx) (high : Bool) : (qualifyLine n high s).TransmitterLaw := by
  have set (l : Line) : (s.setLine n l).TransmitterLaw := law.of_ends ⟨rfl, rfl⟩
  simp only [qualifyLine]
  exact ite ((set _).of_ends (.asserts ..)) ((set _).releases n)

theorem samples (law : s.TransmitterLaw) (n : LineIx) (high : Bool) : (sampleLine n high s).TransmitterLaw := by
  have pin (tin : Vector Bool 8) : State.TransmitterLaw { s with tin := tin } := law
  simp only [sampleLine]
  repeat' split
  · exact law
  · exact pin _
  · exact law.of_ends ⟨rfl, rfl⟩
  · exact (pin _).qualifies n _
  · exact law.of_ends ⟨rfl, rfl⟩

theorem filters (law : s.TransmitterLaw) (n : LineIx) : (expireFilter n s).TransmitterLaw := by
  simp only [expireFilter]
  repeat' split
  · exact law.qualifies n _
  all_goals exact law

theorem periods (law : s.TransmitterLaw) (g : RateIx) : (expirePeriod g s).TransmitterLaw := by
  have set (r : RateGen) : (s.setRate g r).TransmitterLaw := law.of_ends ⟨rfl, rfl⟩
  simp only [expirePeriod]
  repeat' split
  · exact set _
  · exact (set _).of_ends (.asserts ..)
  all_goals exact law

theorem linkCfg (law : s.TransmitterLaw) (on : Bool) : (writeLinkCfg on s).TransmitterLaw := by
  have set : State.TransmitterLaw { s with arb := { s.arb with linkEnable := on } } := law
  simp only [writeLinkCfg]
  exact ite set.grant set

theorem divider (law : s.TransmitterLaw) (w : Word) : (writeDivider w s).TransmitterLaw := by
  simp only [writeDivider]
  exact ite (law.of_ends ⟨rfl, rfl⟩) (law.of_ends ⟨rfl, rfl⟩)

theorem ringWord (law : s.TransmitterLaw) (w : Word) : (ringWrite w s).TransmitterLaw := by
  simp only [ringWrite]
  split <;> exact law.of_ends ⟨rfl, rfl⟩

theorem rateWord (law : s.TransmitterLaw) (g : RateIx) (k : Nat) (w : Word) : (writeRateWord g k w s).TransmitterLaw := by
  simp only [writeRateWord]
  split <;> exact law.of_ends ⟨rfl, rfl⟩

/-! ## Command words and register words -/

theorem onHead {act : HeadIx → State → Verdict × State} (law : s.TransmitterLaw)
    (acts : ∀ h, (act h s).2.TransmitterLaw) : (Machine.onHead act s).2.TransmitterLaw := by
  simp only [Machine.onHead]
  split
  · exact acts _
  · exact law

theorem acts (law : s.TransmitterLaw) (c : CmdName) : (actOf c s).2.TransmitterLaw := by
  cases c with
  | start =>
    simp only [actOf, cmdStart]
    repeat' split
    all_goals exact law.of_ends ⟨rfl, rfl⟩
  | stop => exact law.onHead fun h => law.course (stopHead_course s h)
  | abort => exact law.onHead fun h => law.of_ends (.abort h s)
  | clear => exact law.onHead fun h => by split <;> exact law.of_ends ⟨rfl, rfl⟩
  | headReset => exact law.onHead fun h => law.reset h
  | softTrigger => exact law.of_ends (.asserts ..)
  | apply => exact law.onHead fun h => by split <;> exact law.of_ends ⟨rfl, rfl⟩
  | mark =>
    simp only [actOf, cmdMark]
    split <;> exact law.of_ends ⟨rfl, rfl⟩
  | discard | tbLoad => exact law.of_ends ⟨rfl, rfl⟩
  | programWrite =>
    simp only [actOf, cmdProgramWrite]
    split <;> exact law.of_ends ⟨rfl, rfl⟩
  | programRead =>
    simp only [actOf, cmdProgramRead]
    split <;> exact law.of_ends ⟨rfl, rfl⟩
  | programClear =>
    simp only [actOf, cmdProgramClear]
    split <;> exact law.of_ends ⟨rfl, rfl⟩
  | softReset => exact law.follows.softReset

theorem command (law : s.TransmitterLaw) (c : CmdName) (u : Byte) : (commandWord c (actOf c) u s).TransmitterLaw := by
  obtain ⟨p, e⟩ := commandWord_port c (actOf c) u s
  rw [e]
  exact law.acts c

theorem takeWord (law : s.TransmitterLaw) (w : Word) : (Machine.takeWord w s).TransmitterLaw := by
  simp only [Machine.takeWord, takeWith, actOfCode]
  split
  · exact law.acts _
  · exact law

theorem registerWritten (law : s.TransmitterLaw) (a : Addr) (w : Word) : (writeRegister a w s).TransmitterLaw :=
  have keeps {t : State} (port : t.arb.port = s.arb.port) (link : t.link = s.link) : t.TransmitterLaw :=
    law.of_ends ⟨port, link⟩
  ite (keeps rfl rfl) <| ite (keeps rfl rfl) <| ite (law.takeWord w) <| ite (keeps rfl rfl) <| ite (keeps rfl rfl) <|
  ite (law.ringWord w) <| ite (keeps rfl rfl) <| ite (law.headEn w) <| ite (law.lineCfg _ _ _ _) <|
  ite (law.rateWord _ _ w) <| ite (law.rateWord _ _ w) <| ite (law.course (writeStrobeCfg_course s w)) <|
  ite (law.linkCfg _) <| ite (keeps rfl rfl) <| ite (keeps rfl rfl) <| ite (law.divider w) <| ite (keeps rfl rfl) <|
  ite (keeps rfl rfl) <| ite (keeps rfl rfl) law

theorem registerRead (law : s.TransmitterLaw) (a : Addr) : (readEffect a s).TransmitterLaw := by
  simp only [readEffect]
  exact ite (law.of_ends ⟨rfl, rfl⟩) (ite (law.of_ends ⟨rfl, rfl⟩) (ite (law.of_ends ⟨rfl, rfl⟩) law))

theorem transfers (law : s.TransmitterLaw) (x : Transaction) (w : Word) : (transferWord x w s).TransmitterLaw := by
  simp only [transferWord]
  split
  · exact law.registerRead x.addr
  · exact law.registerWritten x.addr w

/-! ## Every command (R119, R126) -/

theorem of_next (law : u.TransmitterLaw) (e : (.next u : Host.Outcome State Fault Refusal) = .next t) :
    t.TransmitterLaw := Host.Outcome.next.inj e ▸ law

/-- The host's port is no end of the link. -/
theorem of_port {p : HostPort} (law : u.TransmitterLaw)
    (e : (.next { u with port := p } : Host.Outcome State Fault Refusal) = .next t) : t.TransmitterLaw :=
  of_next (u := { u with port := p }) law e

end State.TransmitterLaw

end Sys2Proof.Machine

namespace Sys2Proof

/-- The command brings a COMPLETE of the tag, by name or by a frame examined as one. -/
def Instr.Completes (c : Instr) (tag : Byte) : Prop := ∃ (status : Status) (level : Word),
  c = .complete tag status level ∨ ∃ f : RxFrame, c = .linkError f ∧ examineFrame f = some (tag, status, level)

end Sys2Proof

namespace Sys2Proof.Machine

variable {s t : State}

/-- Every command keeps the law, a COMPLETE when no START of its tag waits. -/
theorem State.TransmitterLaw.exec {c : Instr} (law : s.TransmitterLaw)
    (sent : ∀ tag, c.Completes tag → ∀ h gain, .start h tag gain ∉ s.link.waiting) (e : Machine.exec c s = .next t) :
    t.TransmitterLaw := by
  have kept {t : State} (ends : SameEnds s t) : t.TransmitterLaw := law.of_ends ends
  cases c with
  | powerOnReset =>
    refine of_next ?_ e
    exact ⟨fun _ => rfl, rfl⟩
  | deselect cut =>
    have captured : (if cutsTbLo s cut then captureHigh s else s).TransmitterLaw := ite (kept ⟨rfl, rfl⟩) law
    exact of_port captured e
  | registerWrite w =>
    simp only [Machine.exec, execRegisterWrite] at e
    split at e
    · exact of_next (law.transfers _ w) e
    · exact of_next law e
  | unlistedCommand w => exact of_port (law.takeWord w) e
  | start u => exact of_next (law.command .start u) e
  | stop u => exact of_next (law.command .stop u) e
  | abort u => exact of_next (law.command .abort u) e
  | clear u => exact of_next (law.command .clear u) e
  | headReset u => exact of_next (law.command .headReset u) e
  | softTrigger u => exact of_next (law.command .softTrigger u) e
  | apply u => exact of_next (law.command .apply u) e
  | mark u => exact of_next (law.command .mark u) e
  | discard u => exact of_next (law.command .discard u) e
  | programWrite u => exact of_next (law.command .programWrite u) e
  | programRead u => exact of_next (law.command .programRead u) e
  | programClear u => exact of_next (law.command .programClear u) e
  | tbLoad u => exact of_next (law.command .tbLoad u) e
  | softReset u => exact of_next (law.command .softReset u) e
  | ringDataWrite w => exact of_port (law.ringWord w) e
  | headEnable h => exact of_port (law.enable h true) e
  | headDisable h => exact of_port (law.enable h false) e
  | lineEnable n low code => exact of_port (law.lineCfg n true low code) e
  | lineDisable n low code => exact of_port (law.lineCfg n false low code) e
  | lineReconfigure n low code => exact of_port (law.lineCfg n _ low code) e
  | lineLevelChange n high => exact of_next (law.samples n high) e
  | filterExpiry n => exact of_next (law.filters n) e
  | ratePeriodExpiry g => exact of_next (law.periods g) e
  | delayExpiry h => exact of_next (law.course (expireDelay_course s h)) e
  | integrationExpiry h => exact of_next (ite (kept (.ends h false s)) law) e
  | widthLimitExpiry h => exact of_next (ite (kept (.ends h true s)) law) e
  | spacingExpiry h => exact of_next (law.course (expireSpacing_course s h)) e
  | strobeWaitExpiry h => exact of_next (law.course (expireStrobeWait_course s h)) e
  | overdueTickAttempt h => exact of_next (ite (law.course (enterPacing_course s h)) law) e
  | strobeEnable n => exact of_port (law.course (setStrobe_course s n _ _)) e
  | strobeDisable n => exact of_port (law.course (setStrobe_course s n _ _)) e
  | strobePolarity n low => exact of_port (law.course (setStrobe_course s n _ _)) e
  | linkEnable => exact of_port (law.linkCfg true) e
  | linkDisable => exact of_port (law.linkCfg false) e
  | grant => exact of_next law.grant e
  | frameSent => exact of_next (show State.TransmitterLaw { s with link := s.link.frameSent } from law.follows.frameSent) e
  | complete tag status level =>
    exact of_next (ite law (law.takes (sent tag ⟨status, level, .inl rfl⟩) status level)) e
  | linkError f =>
    refine of_next (u := receiveFrame f s) ?_ e
    simp only [receiveFrame]
    split
    · exact law
    · split
      · rename_i tag status level examined
        exact law.takes (sent tag ⟨status, level, .inr ⟨f, rfl, examined⟩⟩) status level
      · exact kept ⟨rfl, rfl⟩
  | shortFrame =>
    refine of_next (u := if s.link.rxWaitsIdle then s
      else { countLinkError s with link := { s.link with rxWaitsIdle := true } }) (ite law ?_) e
    exact law
  | byteTimeIdle =>
    refine of_next (u := { s with link := { s.link with rxWaitsIdle := false } }) ?_ e
    exact law
  | readoutTimeout => exact of_next law.timeout e
  | tbDivWrite w => exact of_port (law.divider w) e
  | tick => exact of_next (show (tickEnd s).TransmitterLaw from law.follows.tick) e
  | addressByte | ringDataRead | headDropClear | rateEnable | rateDisable | rateDecimation | ratePeriodWrite
  | linkCntClear | queueRead | qThreshWrite | tbLoRead | irqFlagsClear | irqEnWrite | irqPolarity =>
    obtain rfl := Host.Outcome.next.inj e
    exact kept ⟨rfl, rfl⟩

/-- An event of the part's own is no COMPLETE. -/
theorem not_completes_of_due {c : Instr} (due : c ∈ s.dueEvents) (tag : Byte) : ¬ c.Completes tag := by
  have others : (∀ status level, c ≠ .complete tag status level) ∧ ∀ f, c ≠ .linkError f := by
    obtain ⟨h, own⟩ | ⟨n, -, rfl⟩ | ⟨g, -, rfl⟩ | ⟨-, rfl⟩ | ⟨-, rfl⟩ := mem_dueEvents.1 due
    · obtain ⟨-, rfl⟩ | ⟨-, rfl⟩ | ⟨-, rfl⟩ | ⟨-, rfl⟩ | ⟨-, rfl⟩ | ⟨-, rfl⟩ := Head.mem_dueEvents.1 own <;> simp
    all_goals simp
  rintro ⟨status, level, e | ⟨f, e, -⟩⟩
  · exact others.1 status level e
  · exact others.2 f e

theorem State.TransmitterLaw.due {c : Instr} (law : s.TransmitterLaw) (due : c ∈ s.dueEvents) {k : Nat}
    (e : Machine.exec c { s with choices := k } = .next t) : t.TransmitterLaw :=
  State.TransmitterLaw.exec (s := { s with choices := k }) law
    (fun tag completes => absurd completes (not_completes_of_due due tag)) e

/-- With no command waiting, a REFCLK period passes or a due event is taken. -/
theorem State.TransmitterLaw.idle (law : s.TransmitterLaw) (e : Machine.idle s = .next t) : t.TransmitterLaw := by
  match due : s.dueEvents with
  | [] =>
    rw [idle_nil due] at e
    refine of_next (ite ?_ ?_) e
    · exact law
    · exact law.follows.tick
  | [c] =>
    rw [idle_one due] at e
    exact law.due (k := s.choices) (due ▸ List.mem_singleton_self c) e
  | c :: d :: cs =>
    obtain ⟨c, isDue, idles⟩ := idle_several (s := s) (due ▸ Nat.le_add_left 2 cs.length)
    exact law.due isDue (idles.symm.trans e)

end Sys2Proof.Machine

namespace Sys2Proof.Proofs

open Sys2Proof.Machine

/-- Settles O57: the law of the ends, kept by every command; a COMPLETE comes only when its START has been sent. -/
theorem stepKeepsTheTransmitterLaw : Obligations.StepKeepsTheTransmitterLaw := by
  intro s t law _ duty e
  have kept : t.TransmitterLaw := by
    simp only [step] at e
    split at e
    · rename_i c rest front
      refine State.TransmitterLaw.exec (s := { s with pending := rest }) law (fun tag completes h gain waits => ?_) e
      obtain ⟨status, level, completes⟩ := completes
      obtain ⟨complete, frame⟩ := duty h tag gain waits status level c (by rw [front]; rfl)
      obtain named | ⟨f, named, examined⟩ := completes
      · exact complete named
      · exact frame f named examined
    · exact law.idle e
  exact ⟨kept, kept.follows.length_le⟩

end Sys2Proof.Proofs
end
